-- ==== Sys2Proof/Word.lean ====
section
/-! DEFINITION. The two word types of the wire: a byte and a 16-bit half (`00_scope.md` R10). -/

namespace Sys2Proof

/-- A byte, 8 bits (R10). -/
abbrev Byte := BitVec 8

/-- A 16-bit value: a checksum, a length field, an extended tag id (R10, R27). -/
abbrev Half := BitVec 16

end Sys2Proof
end

