-- ==== Sys2Proof/Config.lean ====
section
/-! DEFINITION. The implementation parameters of `00_scope.md` R8 (but the TagRegistry, which REGISTER_TAG
writes and which is therefore a field of State), and the free values of the points the spec leaves open. -/

namespace Sys2Proof

/-- The parameters of R8, with the defaults R8 gives. A state carries its configuration, so that a statement
about every state holds for every choice of the parameters. -/
structure Config where
  /-- `MAX_BODY_LEN`: the largest body length the framer accepts. -/
  maxBodyLen : Nat := 32767
  /-- `BUF_CAP`: bytes of storage in one session's buffer; default `MAX_BODY_LEN + 5`. -/
  bufCap : Nat := maxBodyLen + 5
  /-- `STALL_LIMIT`: none, or the greatest number of bytes that may stay buffered after a FEED. -/
  stallLimit : Option Nat := none
  /-- `N_SESS`: number of session contexts. -/
  nSess : Nat := 1
  /-- `CID_W`: bits of a connection identifier. -/
  cidW : Nat := 32
  /-- `TS_W`: bits of a host-supplied timestamp. -/
  tsW : Nat := 64
deriving DecidableEq, Repr, Inhabited

/-- The ranges of R8, and the capacity R60 asks for (`BUF_CAP >= MAX_BODY_LEN + 5`). -/
def Config.legal (c : Config) : Bool :=
  decide (c.maxBodyLen ≤ 32767) && decide (c.maxBodyLen + 5 ≤ c.bufCap) && decide (1 ≤ c.nSess)
    && decide (1 ≤ c.cidW) && decide (1 ≤ c.tsW)

/-- Free values for the fields of a Closed context, which R38 and U13 leave unspecified ("any value").
No body: nothing can evaluate it (log entry 3). -/
opaque Config.freeValue : Nat → Nat

end Sys2Proof
end

