-- ==== Sys2Proof/Syntax.lean ====
section
/-! DEFINITION. The operations of the block, one constructor of `Instr` per row of `spec/opcode_table.json`,
and the data their operands are made of. -/

namespace Sys2Proof

/-- The thirteen decode kinds (`43_record_decoder.md` R172). -/
inductive Kind where
  | uint8 | int8 | uint16 | int16 | uint32 | int32
  | fixedString (n : Nat)
  | dateTimeSeconds | coordinates | speedDirection | statusBits | ioBitfield | modbusScaled
deriving DecidableEq, Repr, Inhabited

/-- A tag id with the key space it is read in: one byte in the main space, two bytes in the extended
block (R9, R83, R86). -/
inductive TagId where
  | main (t : Byte)
  | ext (x : Half)
deriving DecidableEq, Repr, Inhabited

/-- A label of a TagDefinition: a text (R9). -/
abbrev Label := List Char

/-- A TagDefinition `{id, kind, label}` (R9). -/
structure TagDef where
  id    : Nat
  kind  : Kind
  label : Label
deriving DecidableEq, Repr, Inhabited

/-- The TagRegistry: two finite maps, each a list of definitions with rising ids (R9, R33). -/
structure Registry where
  main : List TagDef
  ext  : List TagDef
deriving DecidableEq, Repr, Inhabited

/-- The reasons a host gives with CLOSE (`46_session.md` R262). -/
inductive HostReason where
  | close | error | timeout
deriving DecidableEq, Repr, Inhabited

/-- The two forms of BUILD_ACK (`45_ack.md` R235, R236). -/
inductive AckForm where
  | normal (k : Half)
  | reject
deriving DecidableEq, Repr, Inhabited

/-- The formats with bits on the wire or in a value (`30_encoding.md` R97). A `kind` item is selected by the
TagDefinition found, an acknowledgement's form by the outcome of the frame: neither by the bits themselves. -/
inductive Format where
  | frameHdr
  | tag8
  | tag16
  | kind (k : Kind)
  | ack
  | ackReject
deriving DecidableEq, Repr, Inhabited

/-- The operations of the block (`30_encoding.md` R97). Value operands of tag items are the bytes that follow the
id inside the segment or block: fewer than the full width when the item is cut off at its end. -/
inductive Instr where
  -- FRAME_HDR
  /-- TELEMETRY: a frame with header 0x01. -/
  | telemetry (ap : Bool) (body : List Byte) (crc : Half)
  /-- KEEPALIVE: a frame with header 0x15. -/
  | keepalive (ap : Bool) (body : List Byte) (crc : Half)
  /-- EXTENSION: a frame with any other header. -/
  | extension (hdr : Byte) (ap : Bool) (body : List Byte) (crc : Half)
  -- TAG8
  /-- TAG_ESCAPE: the length field's bytes and the block's bytes. -/
  | tagEscape (len : List Byte) (items : List Byte)
  /-- TAG_IMEI: main tag 0x03. -/
  | tagImei (value : List Byte)
  /-- TAG_RECSTART: main tag 0x10. -/
  | tagRecstart (value : List Byte)
  /-- TAG_KNOWN: any other main tag in the registry. -/
  | tagKnown (t : Byte) (value : List Byte)
  /-- TAG_UNKNOWN: a main tag not in the registry. -/
  | tagUnknown (t : Byte) (skipped : List Byte)
  -- TAG16
  /-- XTAG_MODBUS: extended tag 0x0001. -/
  | xtagModbus (value : List Byte)
  /-- XTAG_KNOWN: any other extended tag in the registry. -/
  | xtagKnown (x : Half) (value : List Byte)
  /-- XTAG_UNKNOWN: an extended tag not in the registry. -/
  | xtagUnknown (x : Half) (skipped : List Byte)
  -- KIND
  | kindUint8 (b0 : Byte)
  | kindInt8 (b0 : Byte)
  | kindUint16 (b0 b1 : Byte)
  | kindInt16 (b0 b1 : Byte)
  | kindUint32 (b0 b1 b2 b3 : Byte)
  | kindInt32 (b0 b1 b2 b3 : Byte)
  | kindFixedString (v : List Byte)
  | kindDateTimeSeconds (b0 b1 b2 b3 : Byte)
  | kindCoordinates (q a0 a1 a2 a3 o0 o1 o2 o3 : Byte)
  | kindSpeedDirection (s0 s1 d0 d1 : Byte)
  | kindStatusBits (b0 b1 : Byte)
  | kindIoBitfield (b0 b1 : Byte)
  | kindModbusScaled (b0 b1 b2 b3 : Byte)
  -- ACK
  | ackOk (k : Half)
  | ackReject
  -- HOSTOP
  /-- OPEN(cid, t). -/
  | openSession (cid : Nat) (t : Nat)
  /-- FEED(cid, chunk, t). -/
  | feed (cid : Nat) (chunk : List Byte) (t : Nat)
  /-- CLOSE(cid, reason). -/
  | closeSession (cid : Nat) (reason : HostReason)
  /-- REGISTER_TAG(space, id, kind, label). -/
  | registerTag (id : TagId) (kind : Kind) (label : Label)
  /-- RESET. -/
  | resetBlock
  -- INTOP
  /-- CRC_COMPUTE(M). -/
  | crcCompute (m : List Byte)
  /-- CRC_VALIDATE(M, rx). -/
  | crcValidate (m : List Byte) (rx : Half)
  /-- TRY_EXTRACT(B). -/
  | tryExtract (b : List Byte)
  /-- CLASSIFY(hdr). -/
  | classify (hdr : Byte)
  /-- SPLIT(body, L). -/
  | split (body : List Byte) (len : Nat)
  /-- DECODE_RECORD(body, start, end, s), the session named by its cid. -/
  | decodeRecord (cid : Nat) (body : List Byte) (start stop : Nat)
  /-- DECODE_EXT(body, off, end, tagAt). -/
  | decodeExt (body : List Byte) (off stop tagAt : Nat)
  /-- BUILD_ACK, either form. -/
  | buildAck (form : AckForm)
  /-- FRAME_STEP(s, r), with r the result of TRY_EXTRACT on the session's buffer. -/
  | frameStep (cid : Nat)
deriving DecidableEq, Repr

end Sys2Proof
end

