-- ==== Sys2Proof/Machine/Registry.lean ====
section
/-! DEFINITION. The TagRegistry: widths of the kinds, lookup, legality, and the write REGISTER_TAG makes
(`00_scope.md` R9; `10_state.md` R33; `43_record_decoder.md` R172; `46_session.md` R264). -/

namespace Sys2Proof

/-- `width(kind)` in bytes (R172). -/
def Kind.width : Kind → Nat
  | .uint8 => 1
  | .int8 => 1
  | .uint16 => 2
  | .int16 => 2
  | .uint32 => 4
  | .int32 => 4
  | .fixedString n => n
  | .dateTimeSeconds => 4
  | .coordinates => 9
  | .speedDirection => 4
  | .statusBits => 2
  | .ioBitfield => 2
  | .modbusScaled => 4

/-- `TAG_IMEI` (R7). -/
def tagIMEI : Byte := 0x03

/-- `TAG_RECSTART` (R7). -/
def tagRECSTART : Byte := 0x10

/-- `TAG_ESCAPE` (R7). -/
def tagESCAPE : Byte := 0xFE

/-- `UNKNOWN_SKIP` (R7). -/
def unknownSkip : Nat := 4

/-- Lookup of one id in one map. -/
def lookupDef : List TagDef → Nat → Option TagDef
  | [], _ => none
  | d :: ds, k => if d.id = k then some d else lookupDef ds k

/-- `REG.main(t)` (R9, R13). -/
def Registry.mainDef (r : Registry) (t : Byte) : Option TagDef := lookupDef r.main t.toNat

/-- `REG.ext(x)` (R9, R13). -/
def Registry.extDef (r : Registry) (x : Half) : Option TagDef := lookupDef r.ext x.toNat

/-- `REG.<space>(id)`. -/
def Registry.lookup (r : Registry) : TagId → Option TagDef
  | .main t => r.mainDef t
  | .ext x => r.extDef x

/-- Put a definition into a map at its place, replacing an entry of the same id (R264). -/
def insertDef (d : TagDef) : List TagDef → List TagDef
  | [] => [d]
  | e :: es => if d.id < e.id then d :: e :: es else if d.id = e.id then d :: es else e :: insertDef d es

/-- The registry after `REG.<space>(id) <- {id, kind, label}` (R264). -/
def Registry.register (r : Registry) (id : TagId) (kind : Kind) (label : Label) : Registry :=
  match id with
  | .main t => { r with main := insertDef ⟨t.toNat, kind, label⟩ r.main }
  | .ext x => { r with ext := insertDef ⟨x.toNat, kind, label⟩ r.ext }

/-- The label "IMEI" (R9). -/
def imeiLabel : Label := ['I', 'M', 'E', 'I']

/-- The label "Modbus" (R9). -/
def modbusLabel : Label := ['M', 'o', 'd', 'b', 'u', 's']

/-- R9 (c), for one definition: a FixedString(n) has `1 <= n <= 32767`. -/
def TagDef.lengthOk (d : TagDef) : Bool :=
  match d.kind with
  | .fixedString n => decide (1 ≤ n) && decide (n ≤ 32767)
  | _ => true

/-- Legality of a registry, conditions (a), (b) and (c) of R9. -/
def Registry.legal (r : Registry) : Bool :=
  decide (r.mainDef tagIMEI = some ⟨3, .fixedString 15, imeiLabel⟩)
    && (r.mainDef tagESCAPE).isNone
    && r.main.all TagDef.lengthOk && r.ext.all TagDef.lengthOk

/-- Ids strictly rising and below a bound: the one canonical form of a map. -/
def idsRising (bound : Nat) : List TagDef → Bool
  | [] => true
  | [d] => decide (d.id < bound)
  | d :: e :: es => decide (d.id < e.id) && idsRising bound (e :: es)

/-- The canonical form of a registry: equal maps are equal data. -/
def Registry.canonical (r : Registry) : Bool := idsRising 256 r.main && idsRising 65536 r.ext

/-- `REG_MIN`, the least legal registry (R9). -/
def regMin : Registry :=
  { main := [⟨3, .fixedString 15, imeiLabel⟩], ext := [⟨1, .modbusScaled, modbusLabel⟩] }

end Sys2Proof
end

