-- ==== Sys2Proof/Machine/State.lean ====
section
/-! DEFINITION. The state of the block, the values that flow between its components, the events it emits, the reasons a
step can stop, and the state after reset (`10_state.md`; `00_scope.md` R15; `60_exceptions.md` R290). -/

namespace Sys2Proof.Machine

/-- The phases of a session context (R22). -/
inductive Phase where
  | closed | awaitingData | hasCompleteFrames | idle
deriving DecidableEq, Repr, Inhabited

/-- One session context (R21), and the number of the session it serves. -/
structure Session where
  phase          : Phase
  cid            : Nat
  buf            : List Byte
  lastIMEI       : Option (List Byte)
  createdAt      : Nat
  lastActivityAt : Nat
  /-- The model's own: which session this is, counted by OPEN from 1 (log entry 11). -/
  serial         : Nat
deriving DecidableEq, Repr, Inhabited

/-- The frame classes (`42_classifier.md` R160). -/
inductive FrameClass where
  | telemetry | ignorable | extension
deriving DecidableEq, Repr, Inhabited

/-- A Frame value (R36). -/
structure Frame where
  hdr      : Byte
  len      : Nat
  ap       : Bool
  body     : List Byte
  checksum : Half
deriving DecidableEq, Repr, Inhabited

/-- The results of TRY_EXTRACT (`41_framer.md` R140). -/
inductive ExtractResult where
  /-- `Incomplete`: more bytes are needed. -/
  | incomplete
  /-- `Complete(frame, consumed)`. -/
  | complete (frame : Frame) (consumed : Nat)
  /-- `Malformed("checksum", rx, calc, consumed)`. -/
  | badChecksum (rx computed : Half) (consumed : Nat)
  /-- `Malformed("length", L, consumed)`. -/
  | badLength (declared consumed : Nat)
deriving DecidableEq, Repr, Inhabited

/-- An exact rational `num / den` (R14). -/
structure Scaled where
  num : Int
  den : Nat
deriving DecidableEq, Repr, Inhabited

/-- The decoded value of a tag, by kind (`43_record_decoder.md` R172). -/
inductive Value where
  /-- The integer kinds and DateTimeSeconds. -/
  | int (v : Int)
  /-- FixedString: the raw bytes. -/
  | text (bytes : List Byte)
  /-- Coordinates. -/
  | coordinates (sat correctness : BitVec 4) (lat lon : Scaled)
  /-- SpeedDirection. -/
  | speedDirection (speed direction : Scaled)
  /-- StatusBits and IOBitfield: the integer and its sixteen bits, bit 0 first. -/
  | bits (raw : Nat) (bit : List Bool)
  /-- ModbusScaled. -/
  | scaled (v : Scaled)
deriving DecidableEq, Repr, Inhabited

/-- An entry of a Record (R171); `id` holds both the space and the tag id. -/
structure Entry where
  id    : TagId
  kind  : Kind
  raw   : List Byte
  value : Value
deriving DecidableEq, Repr, Inhabited

/-- What a TruncatedTag says was cut off (R290, R296). -/
inductive Trunc where
  | main | ext | extLength | extBlock | extTagId
deriving DecidableEq, Repr, Inhabited

/-- The errors carried by a `ProtocolError` event, with the detail R290 records. -/
inductive ProtocolError where
  | checksumMismatch (received computed : Half) (consumed : Nat)
  | malformedLength (declared : Nat) (dropped : Byte)
  | unknownTag (id : TagId) (pos : Nat)
  | truncatedTag (what : Trunc) (id : Option TagId) (pos needed available : Nat)
  | orphanBytes (count : Nat)
deriving DecidableEq, Repr, Inhabited

/-- The reasons of a `ConnectionClosed` event (R15). -/
inductive CloseReason where
  | close | error | timeout | stallLimit
deriving DecidableEq, Repr, Inhabited

/-- The events, the block's outputs (R15). -/
inductive Event where
  | record (imei : Option (List Byte)) (entries : List Entry)
  | ackRequired (bytes : List Byte)
  | protocolError (e : ProtocolError)
  | frame (cls : FrameClass) (hdr : Byte) (ap : Bool) (body : List Byte)
  | connectionClosed (reason : CloseReason)
deriving DecidableEq, Repr, Inhabited

/-- The closed enumeration of error kinds and non-event conditions (R290, D21): no numeric codes. -/
inductive ErrorKind where
  | incompleteFrame | checksumMismatch | malformedLength | unknownTag | truncatedTag | orphanBytes
  | socketError | timeout | stallLimit
deriving DecidableEq, Repr, Inhabited

/-- The working registers of R27 and the flags `len_ok` and `crc_ok` of R28 (`ap` is both), with the body span (R34) and the
Record being built (R170). They live inside one operation: when it ends they are free values (log entry 1). -/
structure Work where
  /-- `crc`, the CRC accumulator. -/
  crc     : Half
  /-- `hdr`, the frame header byte. -/
  hdr     : Byte
  /-- `raw`, the length field as read. -/
  raw     : Half
  /-- `L`, the declared body length. -/
  len     : BitVec 15
  /-- `ap`, register and flag. -/
  ap      : Bool
  /-- `T`, the total frame size. -/
  total   : Half
  /-- `rx`, the received checksum. -/
  rx      : Half
  /-- `calc`, the computed checksum. -/
  computed : Half
  /-- flag `len_ok`. -/
  lenOk   : Bool
  /-- flag `crc_ok`. -/
  crcOk   : Bool
  /-- The body span being decoded (R34, R58). -/
  body    : List Byte
  /-- `off`, the record decoder's offset. -/
  off     : Half
  /-- `end`, the end of the segment (exclusive). -/
  stop    : Half
  /-- `t`, the 1-byte tag id just read. -/
  tag     : Byte
  /-- `n`, the declared length of the extended block. -/
  n       : Half
  /-- `blkEnd`, the end of the extended block (exclusive). -/
  blkEnd  : BitVec 17
  /-- `p`, the offset inside the extended block. -/
  p       : Half
  /-- `x`, the extended tag id just read. -/
  x       : Half
  /-- `out`, the operation's ordered event list. -/
  out     : List Event
  /-- The Record being built (R170). -/
  entries : List Entry
deriving DecidableEq, Repr, Inhabited

/-- The value an operation returns beside its events. -/
inductive Result where
  | nothing
  /-- CRC_COMPUTE (R120). -/
  | checksum (k : Half)
  /-- CRC_VALIDATE: one bit (R123). -/
  | valid (ok : Bool)
  /-- TRY_EXTRACT (R140). -/
  | extract (r : ExtractResult)
  /-- CLASSIFY (R160). -/
  | frameClass (cls : FrameClass)
  /-- SPLIT: the segments and the orphan count (R220). -/
  | segments (segs : List (Nat × Nat)) (orphan : Nat)
  /-- DECODE_RECORD and DECODE_EXT: the entries and `next` (R170, R195). -/
  | entries (es : List Entry) (next : Nat)
  /-- BUILD_ACK (R235, R236). -/
  | ack (bytes : List Byte)
  /-- decodeValue (R172). -/
  | value (v : Value)
deriving DecidableEq, Repr, Inhabited

/-- What the last operation returned: its value, and its ordered list of events (R15; log entry 32). -/
structure Returned where
  value  : Result
  events : List Event
deriving DecidableEq, Repr, Inhabited

/-- An event in the log, with the session that emitted it and that session's cid (R35; log entry 11). -/
structure Logged where
  serial : Nat
  cid    : Nat
  event  : Event
deriving DecidableEq, Repr, Inhabited

/-- The operations of the host (R94, R311): all that the host can do. -/
inductive HostOp where
  | openSession (cid : Nat) (t : Nat)
  | feed (cid : Nat) (chunk : List Byte) (t : Nat)
  | closeSession (cid : Nat) (reason : HostReason)
  | registerTag (id : TagId) (kind : Kind) (label : Label)
  | resetBlock
deriving DecidableEq, Repr

/-- The internal operations (R94). -/
inductive IntOp where
  | crcCompute (m : List Byte)
  | crcValidate (m : List Byte) (rx : Half)
  | tryExtract (b : List Byte)
  | classify (hdr : Byte)
  | split (body : List Byte) (len : Nat)
  | decodeRecord (cid : Nat) (body : List Byte) (start stop : Nat)
  | decodeExt (body : List Byte) (off stop tagAt : Nat)
  | buildAck (form : AckForm)
  | frameStep (cid : Nat)
deriving DecidableEq, Repr

/-- What can be presented to one component alone. None of the parties of R311 can: this bench is the model's own way to run an
item or an internal operation outside a frame step (log entry 15). -/
inductive Bench where
  /-- A wire item, presented to the component that reads its format. -/
  | item (f : Format) (bytes : List Byte)
  /-- An internal operation. -/
  | op (o : IntOp)
deriving DecidableEq, Repr

/-- Who moves next (R63, R314; log entry 8). -/
inductive Turn where
  | host
  | session (k : Nat)
  | bench
deriving DecidableEq, Repr

/-- The reasons a step faults. -/
inductive Fault where
  /-- Raised by SPLIT, DECODE_RECORD and DECODE_EXT on operands that name no span of a body: an offset or length outside the body,
  an end before the start, a body above 32767 bytes. U17: a read outside a span cannot occur; "treat as `stuck`". Safe (log entry 20). -/
  | spanOverrun
deriving DecidableEq, Repr

/-- Why the decoder reads no instruction from the bytes presented. -/
inductive DecodeError where
  /-- Fewer bytes than the format's fixed part. Safe. -/
  | tooShort
  /-- A frame whose body or checksum is not all there (R142, R143). Safe. -/
  | incompleteFrame
  /-- An acknowledgement that does not begin with 0x02, or not the reject form's bytes (R91). Safe. -/
  | notAnAck
deriving DecidableEq, Repr

/-- The reasons a step is refused: the operation is given no step (R299). -/
inductive Refusal where
  /-- Raised by exec's arm of an instruction without a meaning yet. Safe. -/
  | notModelled (mnemonic : String)
  /-- Raised by OPEN when an open context has the cid (R251 (a)). Safe: R299 gives it no step. -/
  | cidAlreadyOpen
  /-- Raised by OPEN when no context is Closed (R251 (b)). Safe: R299. -/
  | noFreeContext
  /-- Raised by FEED when no context has the cid in AwaitingData (R253). Safe: R299. -/
  | notAwaitingData
  /-- Raised by CLOSE (R262, R299) and DECODE_RECORD (log entry 31) when no open context has the cid. Safe. -/
  | cidNotOpen
  /-- Raised by REGISTER_TAG while a context is not Closed (R264). Safe: R299. -/
  | sessionOpen
  /-- Raised by REGISTER_TAG when the resulting registry is illegal (R264, R9). Safe: R299. -/
  | illegalRegistry
  /-- Raised by OPEN and FEED for a cid or timestamp wider than CID_W or TS_W bits (R250, R252). Safe (log entry 19). -/
  | operandTooWide
  /-- Raised by FRAME_STEP and the frame classes when no context is between TRY_EXTRACT and its frame step (R256; log entry 29).
  Safe. -/
  | noFrameStepDue
  /-- Raised by FRAME_STEP when TRY_EXTRACT answers Incomplete: `r` is "other than `Incomplete`" (R256; log entry
  29). Safe. -/
  | noCompleteFrame
  /-- Raised by a frame class when its frame does not stand at the front of the buffer (R23; log entry 29). Safe. -/
  | frameNotAtFront
  /-- Raised by TAG_IMEI, ACK_OK and ACK_REJECT when the current context is Closed (R190, R235; log entry 28). Safe. -/
  | noSession
  /-- Raised by step when the bytes presented decode to nothing (log entry 26). Safe. -/
  | undecodable (e : DecodeError)
deriving DecidableEq, Repr

/-- The state of the block. The first four fields are the spec's (R8, R9, R20, R35), `work` its working registers (R27); the
others are the model's own (log entries 32, 14, 10, 15, 8, 9, 11, 1). -/
structure State where
  cfg    : Config
  reg    : Registry
  ctxs   : List Session
  log    : List Logged
  work   : Work
  ret    : Returned
  cur    : Nat
  queue  : List HostOp
  bench  : List Bench
  sched  : List Turn
  slots  : List Nat
  opened : Nat
  free   : Nat
deriving DecidableEq, Repr

/-- A context after reset: Closed, empty, no IMEI (R38). cid and the timestamps are unspecified by the spec;
at reset the model names 0 (DESIGN CHOICE, log entry 3). -/
def Session.atReset : Session :=
  { phase := .closed, cid := 0, buf := [], lastIMEI := none, createdAt := 0, lastActivityAt := 0,
    serial := 0 }

/-- The working registers at reset: unspecified by the spec (R38); the model names zero and empty
(DESIGN CHOICE, log entry 2). -/
def Work.atReset : Work :=
  { crc := 0, hdr := 0, raw := 0, len := 0, ap := false, total := 0, rx := 0, computed := 0, lenOk := false, crcOk := false,
    body := [], off := 0, stop := 0, tag := 0, n := 0, blkEnd := 0, p := 0, x := 0, out := [], entries := [] }

/-- The block after reset, with the default parameters (R8, R38, R330). The registry is REG_MIN
(DESIGN CHOICE, log entry 4); nothing is presented (log entry 10). -/
def State.reset : State :=
  { cfg := {}, reg := regMin, ctxs := [Session.atReset], log := [], work := Work.atReset,
    ret := ⟨.nothing, []⟩, cur := 0, queue := [], bench := [], sched := [], slots := [], opened := 0, free := 0 }

end Sys2Proof.Machine

/-- Free values of the working registers between operations (R27: "their content is unspecified"; log entry 1). No
body: nothing can evaluate it. -/
opaque Sys2Proof.Config.freeWork : Nat → Sys2Proof.Machine.Work
end

