-- ==== Sys2Proof/Machine/Bytes.lean ====
section
/-! DEFINITION. Reads of a span, byte order and sign extension (`00_scope.md` R11, R12; `20_memory.md` R50, R53, R55).
Offsets are plain numbers (R13). Every caller tests that the read lies inside the span first (R53). -/

namespace Sys2Proof.Machine

/-- `S[o]`, for `o` inside the span. -/
def byteAt (S : List Byte) (o : Nat) : Byte := S.getD o 0

/-- The half-open slice `S[a..b)` (R11). -/
def slice (S : List Byte) (a b : Nat) : List Byte := (S.drop a).take (b - a)

/-- `u8(S, o)` (R12). -/
def u8 (S : List Byte) (o : Nat) : Nat := (byteAt S o).toNat

/-- `u16le(S, o) = S[o] + 256 * S[o+1]` (R12, R50). -/
def u16le (S : List Byte) (o : Nat) : Nat := u8 S o + 256 * u8 S (o + 1)

/-- `u32le(S, o)` (R12, R50). -/
def u32le (S : List Byte) (o : Nat) : Nat :=
  u8 S o + 256 * u8 S (o + 1) + 65536 * u8 S (o + 2) + 16777216 * u8 S (o + 3)

/-- The 16-bit register that receives `u16le(S, o)`. -/
def halfAt (S : List Byte) (o : Nat) : Half := BitVec.ofNat 16 (u16le S o)

/-- `sext_N(v)`: the N-bit unsigned `v` read as two's complement (R12). -/
def sext (n v : Nat) : Int := if v < 2 ^ (n - 1) then (v : Int) else (v : Int) - 2 ^ n

/-- `s8(S, o)` (R12). -/
def s8 (S : List Byte) (o : Nat) : Int := sext 8 (u8 S o)

/-- `s16le(S, o)` (R12). -/
def s16le (S : List Byte) (o : Nat) : Int := sext 16 (u16le S o)

/-- `s32le(S, o)` (R12). -/
def s32le (S : List Byte) (o : Nat) : Int := sext 32 (u32le S o)

/-- `lo8(v) = v[7:0]` (R10). -/
def lo8 (v : Half) : Byte := v.setWidth 8

/-- `hi8(v) = v[15:8]` (R10). -/
def hi8 (v : Half) : Byte := (v >>> 8).setWidth 8

/-- The two bytes of a 16-bit value in wire order, low byte first (R50). -/
def halfBytes (v : Half) : List Byte := [lo8 v, hi8 v]

end Sys2Proof.Machine
end

