-- ==== Sys2Proof/WellFormed.lean ====
section
/-! DEFINITION. Well-formed operations: every operand in the range the spec gives it, and every item the row its
selector says (`30_encoding.md` R80 to R87, R97). Cut-off items (R184, R186, R197, R200) are not well-formed; the machine
still runs them. -/

namespace Sys2Proof
open Machine

/-- A frame's body length fits the 15 bits of the length field (R80). -/
def bodyFits (body : List Byte) : Bool := decide (body.length ≤ 32767)

/-- The number of value bytes of main tag `t`: the kind's width, or 4 (R83). -/
def Registry.mainWidth (r : Registry) (t : Byte) : Nat :=
  match r.mainDef t with
  | some d => d.kind.width
  | none => unknownSkip

/-- The number of value bytes of extended tag `x` (R86). -/
def Registry.extWidth (r : Registry) (x : Half) : Nat :=
  match r.extDef x with
  | some d => d.kind.width
  | none => unknownSkip

/-- Every check of a term, one arm per row. -/
def Instr.wellFormed (cfg : Config) (reg : Registry) : Instr → Bool
  | .telemetry _ body _ => bodyFits body
  | .keepalive _ body _ => bodyFits body
  | .extension hdr _ body _ => bodyFits body && hdr != 0x01 && hdr != 0x15
  | .tagEscape len items => decide (len.length = 2) && decide (items.length = u16le len 0)
  | .tagImei value => decide (value.length = reg.mainWidth tagIMEI)
  | .tagRecstart value => decide (value.length = reg.mainWidth tagRECSTART)
  | .tagKnown t value =>
      t != tagESCAPE && t != tagIMEI && t != tagRECSTART && (reg.mainDef t).isSome
        && decide (value.length = reg.mainWidth t)
  | .tagUnknown t skipped =>
      t != tagESCAPE && t != tagIMEI && t != tagRECSTART && (reg.mainDef t).isNone
        && decide (skipped.length = unknownSkip)
  | .xtagModbus value => decide (value.length = reg.extWidth 1)
  | .xtagKnown x value => x != 1 && (reg.extDef x).isSome && decide (value.length = reg.extWidth x)
  | .xtagUnknown x skipped => x != 1 && (reg.extDef x).isNone && decide (skipped.length = unknownSkip)
  | .kindUint8 _ => true
  | .kindInt8 _ => true
  | .kindUint16 _ _ => true
  | .kindInt16 _ _ => true
  | .kindUint32 _ _ _ _ => true
  | .kindInt32 _ _ _ _ => true
  | .kindFixedString v => decide (1 ≤ v.length) && decide (v.length ≤ 32767)
  | .kindDateTimeSeconds _ _ _ _ => true
  | .kindCoordinates _ _ _ _ _ _ _ _ _ => true
  | .kindSpeedDirection _ _ _ _ => true
  | .kindStatusBits _ _ => true
  | .kindIoBitfield _ _ => true
  | .kindModbusScaled _ _ _ _ => true
  | .ackOk _ => true
  | .ackReject => true
  | .openSession cid t => decide (cid < 2 ^ cfg.cidW) && decide (t < 2 ^ cfg.tsW)
  | .feed cid _ t => decide (cid < 2 ^ cfg.cidW) && decide (t < 2 ^ cfg.tsW)
  | .closeSession cid _ => decide (cid < 2 ^ cfg.cidW)
  | .registerTag id kind label => (reg.register id kind label).legal
  | .resetBlock => true
  | .crcCompute _ => true
  | .crcValidate _ _ => true
  | .tryExtract _ => true
  | .classify _ => true
  | .split body len => decide (len = body.length) && bodyFits body
  | .decodeRecord cid body start stop =>
      decide (cid < 2 ^ cfg.cidW) && bodyFits body && decide (start ≤ stop) && decide (stop ≤ body.length)
  | .decodeExt body off stop tagAt =>
      bodyFits body && decide (tagAt < off) && decide (off ≤ stop) && decide (stop ≤ body.length)
  | .buildAck _ => true
  | .frameStep cid => decide (cid < 2 ^ cfg.cidW)

end Sys2Proof
end

