-- ==== Sys2Proof/Decode.lean ====
section
/-! DEFINITION. The decoder of the five wire formats, total on any bytes, and after it the encoder (`30_encoding.md`). -/

namespace Sys2Proof
open Machine

/-- The body length in a length field: `L = raw & 0x7FFF` (R81). -/
def declaredLength (raw : Half) : Nat := (raw &&& 0x7FFF).toNat

/-- The archive-pending flag of a length field: `raw[15]` (R81). -/
def archivePending (raw : Half) : Bool := raw.getLsbD 15

/-- The length field of a body: `|body| + 32768 * ap` (R95). -/
def lengthField (ap : Bool) (body : List Byte) : Half :=
  BitVec.ofNat 16 (body.length + if ap then 32768 else 0)

/-- A FRAME_HDR item: the header byte selects the class (R82, R97). The checksum field is read, not tested:
testing it is the meaning's (log entry 22). -/
def decodeFrame (B : List Byte) : Except DecodeError (Instr × List Byte) :=
  if B.length < 3 then .error .tooShort
  else
    let hdr := byteAt B 0
    let raw := halfAt B 1
    let L := declaredLength raw
    if B.length < L + 5 then .error .incompleteFrame
    else
      let ap := archivePending raw
      let body := slice B 3 (L + 3)
      let crc := halfAt B (L + 3)
      let rest := B.drop (L + 5)
      if hdr = 0x01 then .ok (.telemetry ap body crc, rest)
      else if hdr = 0x15 then .ok (.keepalive ap body crc, rest)
      else .ok (.extension hdr ap body crc, rest)

/-- A TAG8 item of a segment (R83, R97): the escape is tested before any lookup; the value bytes are as many of the
row's as the segment still holds. -/
def decodeTag8 (reg : Registry) : List Byte → Except DecodeError (Instr × List Byte)
  | [] => .error .tooShort
  | t :: rest =>
    if t = tagESCAPE then
      let n := u16le rest 0
      .ok (.tagEscape (rest.take 2) ((rest.drop 2).take n), (rest.drop 2).drop n)
    else
      let w := reg.mainWidth t
      if t = tagIMEI then .ok (.tagImei (rest.take w), rest.drop w)
      else if t = tagRECSTART then .ok (.tagRecstart (rest.take w), rest.drop w)
      else if (reg.mainDef t).isSome then .ok (.tagKnown t (rest.take w), rest.drop w)
      else .ok (.tagUnknown t (rest.take w), rest.drop w)

/-- A TAG16 item of an extended block (R86, R97). -/
def decodeTag16 (reg : Registry) : List Byte → Except DecodeError (Instr × List Byte)
  | x0 :: x1 :: rest =>
    let x := halfAt [x0, x1] 0
    let w := reg.extWidth x
    if x = 1 then .ok (.xtagModbus (rest.take w), rest.drop w)
    else if (reg.extDef x).isSome then .ok (.xtagKnown x (rest.take w), rest.drop w)
    else .ok (.xtagUnknown x (rest.take w), rest.drop w)
  | _ => .error .tooShort

/-- The value bytes of a kind (R87). -/
def decodeKind (k : Kind) (B : List Byte) : Except DecodeError (Instr × List Byte) :=
  if B.length < k.width then .error .tooShort
  else
    let b := byteAt B
    let rest := B.drop k.width
    match k with
    | .uint8 => .ok (.kindUint8 (b 0), rest)
    | .int8 => .ok (.kindInt8 (b 0), rest)
    | .uint16 => .ok (.kindUint16 (b 0) (b 1), rest)
    | .int16 => .ok (.kindInt16 (b 0) (b 1), rest)
    | .uint32 => .ok (.kindUint32 (b 0) (b 1) (b 2) (b 3), rest)
    | .int32 => .ok (.kindInt32 (b 0) (b 1) (b 2) (b 3), rest)
    | .fixedString n => .ok (.kindFixedString (B.take n), rest)
    | .dateTimeSeconds => .ok (.kindDateTimeSeconds (b 0) (b 1) (b 2) (b 3), rest)
    | .coordinates => .ok (.kindCoordinates (b 0) (b 1) (b 2) (b 3) (b 4) (b 5) (b 6) (b 7) (b 8), rest)
    | .speedDirection => .ok (.kindSpeedDirection (b 0) (b 1) (b 2) (b 3), rest)
    | .statusBits => .ok (.kindStatusBits (b 0) (b 1), rest)
    | .ioBitfield => .ok (.kindIoBitfield (b 0) (b 1), rest)
    | .modbusScaled => .ok (.kindModbusScaled (b 0) (b 1) (b 2) (b 3), rest)

/-- An acknowledgement in normal form (R91). -/
def decodeAck : List Byte → Except DecodeError (Instr × List Byte)
  | b0 :: b1 :: b2 :: rest => if b0 = 0x02 then .ok (.ackOk (halfAt [b1, b2] 0), rest) else .error .notAnAck
  | _ => .error .tooShort

/-- An acknowledgement in reject form (R91). -/
def decodeAckReject : List Byte → Except DecodeError (Instr × List Byte)
  | b0 :: b1 :: b2 :: rest => if [b0, b1, b2] = [0x02, 0x3F, 0x00] then .ok (.ackReject, rest) else .error .notAnAck
  | _ => .error .tooShort

/-- The decoder: the item of format `f` at the front of the bytes, and the bytes after it. -/
def decode (reg : Registry) (f : Format) (B : List Byte) : Except DecodeError (Instr × List Byte) :=
  match f with
  | .frameHdr => decodeFrame B
  | .tag8 => decodeTag8 reg B
  | .tag16 => decodeTag16 reg B
  | .kind k => decodeKind k B
  | .ack => decodeAck B
  | .ackReject => decodeAckReject B

/-- The bytes the checksum of a frame covers: header, length field, body (R80). -/
def frameHead (hdr : Byte) (ap : Bool) (body : List Byte) : List Byte :=
  hdr :: halfBytes (lengthField ap body) ++ body

/-- A frame's bytes (R80): the checksummed part and the checksum, low byte first. -/
def frameBytes (hdr : Byte) (ap : Bool) (body : List Byte) (crc : Half) : List Byte :=
  frameHead hdr ap body ++ halfBytes crc

/-- The format an instruction is written in; none for the host and internal operations (R94, R97). -/
def formatOf : Instr → Option Format
  | .telemetry _ _ _ => some .frameHdr
  | .keepalive _ _ _ => some .frameHdr
  | .extension _ _ _ _ => some .frameHdr
  | .tagEscape _ _ => some .tag8
  | .tagImei _ => some .tag8
  | .tagRecstart _ => some .tag8
  | .tagKnown _ _ => some .tag8
  | .tagUnknown _ _ => some .tag8
  | .xtagModbus _ => some .tag16
  | .xtagKnown _ _ => some .tag16
  | .xtagUnknown _ _ => some .tag16
  | .kindUint8 _ => some (.kind .uint8)
  | .kindInt8 _ => some (.kind .int8)
  | .kindUint16 _ _ => some (.kind .uint16)
  | .kindInt16 _ _ => some (.kind .int16)
  | .kindUint32 _ _ _ _ => some (.kind .uint32)
  | .kindInt32 _ _ _ _ => some (.kind .int32)
  | .kindFixedString v => some (.kind (.fixedString v.length))
  | .kindDateTimeSeconds _ _ _ _ => some (.kind .dateTimeSeconds)
  | .kindCoordinates _ _ _ _ _ _ _ _ _ => some (.kind .coordinates)
  | .kindSpeedDirection _ _ _ _ => some (.kind .speedDirection)
  | .kindStatusBits _ _ => some (.kind .statusBits)
  | .kindIoBitfield _ _ => some (.kind .ioBitfield)
  | .kindModbusScaled _ _ _ _ => some (.kind .modbusScaled)
  | .ackOk _ => some .ack
  | .ackReject => some .ackReject
  | .openSession _ _ => none
  | .feed _ _ _ => none
  | .closeSession _ _ => none
  | .registerTag _ _ _ => none
  | .resetBlock => none
  | .crcCompute _ => none
  | .crcValidate _ _ => none
  | .tryExtract _ => none
  | .classify _ => none
  | .split _ _ => none
  | .decodeRecord _ _ _ _ => none
  | .decodeExt _ _ _ _ => none
  | .buildAck _ => none
  | .frameStep _ => none

/-- The encoder: the bytes of an instruction, in wire order; none for those with no encoding (R94). -/
def encode : Instr → List Byte
  | .telemetry ap body crc => frameBytes 0x01 ap body crc
  | .keepalive ap body crc => frameBytes 0x15 ap body crc
  | .extension hdr ap body crc => frameBytes hdr ap body crc
  | .tagEscape len items => tagESCAPE :: len ++ items
  | .tagImei value => tagIMEI :: value
  | .tagRecstart value => tagRECSTART :: value
  | .tagKnown t value => t :: value
  | .tagUnknown t skipped => t :: skipped
  | .xtagModbus value => halfBytes 1 ++ value
  | .xtagKnown x value => halfBytes x ++ value
  | .xtagUnknown x skipped => halfBytes x ++ skipped
  | .kindUint8 b0 => [b0]
  | .kindInt8 b0 => [b0]
  | .kindUint16 b0 b1 => [b0, b1]
  | .kindInt16 b0 b1 => [b0, b1]
  | .kindUint32 b0 b1 b2 b3 => [b0, b1, b2, b3]
  | .kindInt32 b0 b1 b2 b3 => [b0, b1, b2, b3]
  | .kindFixedString v => v
  | .kindDateTimeSeconds b0 b1 b2 b3 => [b0, b1, b2, b3]
  | .kindCoordinates q a0 a1 a2 a3 o0 o1 o2 o3 => [q, a0, a1, a2, a3, o0, o1, o2, o3]
  | .kindSpeedDirection s0 s1 d0 d1 => [s0, s1, d0, d1]
  | .kindStatusBits b0 b1 => [b0, b1]
  | .kindIoBitfield b0 b1 => [b0, b1]
  | .kindModbusScaled b0 b1 b2 b3 => [b0, b1, b2, b3]
  | .ackOk k => 0x02 :: halfBytes k
  | .ackReject => [0x02, 0x3F, 0x00]
  | .openSession _ _ => []
  | .feed _ _ _ => []
  | .closeSession _ _ => []
  | .registerTag _ _ _ => []
  | .resetBlock => []
  | .crcCompute _ => []
  | .crcValidate _ _ => []
  | .tryExtract _ => []
  | .classify _ => []
  | .split _ _ => []
  | .decodeRecord _ _ _ _ => []
  | .decodeExt _ _ _ _ => []
  | .buildAck _ => []
  | .frameStep _ => []

/-- The low `count` bytes of a number, least significant first. -/
def bytesOfNat : Nat → Nat → List Byte
  | 0, _ => []
  | count + 1, w => BitVec.ofNat 8 w :: bytesOfNat count (w / 256)

/-- The format in which the opcode table's word is read (log entry 16): the table's fixed selectors first (TAG16 is the only
format of 16 bits, ACK_REJECT the only one of 24), any other byte as a frame header. -/
def tableFormat (nbits w : Nat) : Format :=
  if nbits = 24 ∧ w = 0x003F02 then .ackReject
  else if nbits = 16 then .tag16
  else if w % 256 = 0x02 then .ack
  else if w % 256 = 0xFE ∨ w % 256 = 0x03 ∨ w % 256 = 0x10 then .tag8
  else .frameHdr

/-- The bytes of the opcode table's word, every later byte zero: for a frame, all the bytes its length field asks for; for any
other format sixteen bytes, the longest item of REG_MIN. -/
def tableBytes (nbits w : Nat) : List Byte :=
  let given := bytesOfNat (nbits / 8) w
  let size := match tableFormat nbits w with
    | .frameHdr => declaredLength (halfAt given 1) + 5
    | _ => 16
  given ++ List.replicate (size - given.length) 0

/-- The instruction the decoder reads from an opcode-table word, with the registry REG_MIN. -/
def decodeTableWord (nbits w : Nat) : Option Instr :=
  match decode regMin (tableFormat nbits w) (tableBytes nbits w) with
  | .ok (i, _) => some i
  | .error _ => none

end Sys2Proof
end

