-- ==== Sys2Proof/Machine/Flags.lean ====
section
/-! DEFINITION. The four one-bit conditions of `10_state.md` R28. `ap` is `archivePending` of Decode.lean. -/

namespace Sys2Proof.Machine

/-- `len_ok`: `L <= MAX_BODY_LEN` (R28, R141). -/
def lengthOk (maxBodyLen L : Nat) : Bool := decide (L ≤ maxBodyLen)

/-- `crc_ok`: `calc == rx` (R28, R123). -/
def checksumOk (computed rx : Half) : Bool := computed == rx

/-- `imei_valid`: `s.lastIMEI != none` (R28). -/
def imeiValid (c : Session) : Bool := c.lastIMEI.isSome

end Sys2Proof.Machine
end

