-- ==== Sys2Proof/Machine/Operands.lean ====
section
/-! DEFINITION. The thirteen value layouts: `decodeValue(kind, V)`, total, on a span of exactly `width(kind)` bytes
(`43_record_decoder.md` R172 to R179, R187 to R189, R191 to R193). -/

namespace Sys2Proof.Machine

/-- R173. -/
def valueUint8 (V : List Byte) : Value := .int (u8 V 0)
/-- R174. -/
def valueInt8 (V : List Byte) : Value := .int (s8 V 0)
/-- R175. -/
def valueUint16 (V : List Byte) : Value := .int (u16le V 0)
/-- R176. -/
def valueInt16 (V : List Byte) : Value := .int (s16le V 0)
/-- R177. -/
def valueUint32 (V : List Byte) : Value := .int (u32le V 0)
/-- R178. -/
def valueInt32 (V : List Byte) : Value := .int (s32le V 0)
/-- R179: the bytes as they are, neither checked nor trimmed. -/
def valueFixedString (V : List Byte) : Value := .text V
/-- R187: unsigned Unix seconds. -/
def valueDateTimeSeconds (V : List Byte) : Value := .int (u32le V 0)
/-- R188: nibbles, then latitude, then longitude; no range check. -/
def valueCoordinates (V : List Byte) : Value :=
  .coordinates ((byteAt V 0).setWidth 4) ((byteAt V 0 >>> 4).setWidth 4)
    ⟨s32le V 1, 1000000⟩ ⟨s32le V 5, 1000000⟩
/-- R189: speed, then direction; no range check. -/
def valueSpeedDirection (V : List Byte) : Value := .speedDirection ⟨u16le V 0, 10⟩ ⟨u16le V 2, 10⟩
/-- The sixteen bits of an integer, bit 0 first (R191). -/
def sixteenBits (raw : Nat) : List Bool := (List.range 16).map raw.testBit
/-- R191. -/
def valueStatusBits (V : List Byte) : Value := .bits (u16le V 0) (sixteenBits (u16le V 0))
/-- R192. -/
def valueIoBitfield (V : List Byte) : Value := .bits (u16le V 0) (sixteenBits (u16le V 0))
/-- R193: unsigned. -/
def valueModbusScaled (V : List Byte) : Value := .scaled ⟨u32le V 0, 100⟩

/-- `decodeValue(kind, V)` (R172). -/
def decodeValue : Kind → List Byte → Value
  | .uint8, V => valueUint8 V
  | .int8, V => valueInt8 V
  | .uint16, V => valueUint16 V
  | .int16, V => valueInt16 V
  | .uint32, V => valueUint32 V
  | .int32, V => valueInt32 V
  | .fixedString _, V => valueFixedString V
  | .dateTimeSeconds, V => valueDateTimeSeconds V
  | .coordinates, V => valueCoordinates V
  | .speedDirection, V => valueSpeedDirection V
  | .statusBits, V => valueStatusBits V
  | .ioBitfield, V => valueIoBitfield V
  | .modbusScaled, V => valueModbusScaled V

end Sys2Proof.Machine
end

