-- ==== Sys2Proof/Machine/Ops.lean ====
section
/-! DEFINITION. The named operations over the state: the byte queue, the contexts, the event log, raising an error, and
closing a context. -/

namespace Sys2Proof.Machine
open Sys2Proof

/-- `raise E(info)` (R13): the event `ProtocolError(E, info)` joins the operation's output list and control goes on.
This is all an error does at its entry: nothing is saved, no mode or mask changes, nothing vectors (R306, R308), so there
is no return from one. The recovery of R306 stands beside each call. -/
def raise (e : ProtocolError) (out : List Event) : List Event := out ++ [.protocolError e]

/-- `BufAppend(s, bytes)` (`20_memory.md` R56). -/
def Session.bufAppend (c : Session) (bytes : List Byte) : Session := { c with buf := c.buf ++ bytes }

/-- `BufDrop(s, k)` (R57). -/
def Session.bufDrop (c : Session) (k : Nat) : Session := { c with buf := c.buf.drop k }

/-- A context is open when its phase is not Closed (R22). -/
def Session.isOpen (c : Session) : Bool := c.phase != .closed

/-- Write one context. -/
def State.setCtx (s : State) (k : Nat) (c : Session) : State := { s with ctxs := s.ctxs.set k c }

/-- The index and content of the first context with this cid in one of these phases; no two open contexts have the same
cid (R25, R251). -/
def State.findCtx (s : State) (ok : Phase → Bool) (cid : Nat) : Option (Nat × Session) :=
  match s.ctxs.findIdx? (fun c => ok c.phase && c.cid == cid) with
  | some k => (s.ctxs[k]?).map fun c => (k, c)
  | none => none

/-- Open, in any phase but Closed. -/
def openPhase (p : Phase) : Bool := p != .closed

/-- The context the working registers serve, when it is open. -/
def State.curSession (s : State) : Option Session :=
  match s.ctxs[s.cur]? with
  | some c => if c.isOpen then some c else none
  | none => none

/-- The indices of the Closed contexts, from index `i` on. -/
def closedFrom : Nat → List Session → List Nat
  | _, [] => []
  | i, c :: cs => if c.isOpen then closedFrom (i + 1) cs else i :: closedFrom (i + 1) cs

/-- The Closed context an OPEN takes: "which one is not observable" (R250), any (U15). The oracle `slots` names it
(log entry 9). -/
def State.freeContext (s : State) : Option Nat :=
  let free := closedFrom 0 s.ctxs
  free[s.slots.headD 0 % free.length]?

/-- Append events of session `c` to the event log (R15, R35). -/
def State.emit (s : State) (c : Session) (evs : List Event) : State :=
  { s with log := s.log ++ evs.map fun e => ⟨c.serial, c.cid, e⟩ }

/-- The end of an operation: what it returns (log entry 32); no working register keeps a value to the next operation (R27, R124,
U14), so each is a free value (log entry 1). -/
def State.done (s : State) (value : Result) (events : List Event) : State :=
  { s with work := Config.freeWork s.free, free := s.free + 1, ret := ⟨value, events⟩ }

/-- A context after CLOSE or RESET (R38, R262, R330): cid and timestamps unspecified, free values of their widths
(U13, log entry 3). -/
def Session.closedAt (cfg : Config) (n : Nat) : Session :=
  { phase := .closed, buf := [], lastIMEI := none, serial := 0,
    cid := Config.freeValue n % 2 ^ cfg.cidW,
    createdAt := Config.freeValue (n + 1) % 2 ^ cfg.tsW,
    lastActivityAt := Config.freeValue (n + 2) % 2 ^ cfg.tsW }

/-- CLOSE_INTERNAL and CLOSE (`46_session.md` R262, R263): discard the buffer and the IMEI, close, and signal. -/
def State.closeContext (s : State) (k : Nat) (c : Session) (reason : CloseReason) : State :=
  let s1 := (s.setCtx k (Session.closedAt s.cfg s.free)).emit c [.connectionClosed reason]
  { s1 with free := s1.free + 3 }.done .nothing [.connectionClosed reason]

/-- Every context after RESET (R330); context `i` takes its free values from index `n + 3 * i` on. -/
def closeAll (cfg : Config) : Nat → List Session → List Session
  | _, [] => []
  | n, _ :: cs => Session.closedAt cfg n :: closeAll cfg (n + 3) cs

/-- The reason a CLOSE signals (R262). -/
def closeReasonOf : HostReason → CloseReason
  | .close => .close
  | .error => .error
  | .timeout => .timeout

/-- The keyed stores of the block, `REG.main` and `REG.ext` (R34), in their one canonical form. -/
def Memory.wf (s : State) : Bool := s.reg.canonical

/-- The ordered event list of one session (R35), by its number: a session opened later on the same cid has a list of its own. -/
def State.eventsOf (s : State) (serial : Nat) : List Event :=
  (s.log.filter fun e => e.serial == serial).map Logged.event

/-- The bytes an event puts on the TX stream (R34, R35). -/
def Event.txBytes : Event → List Byte
  | .ackRequired bytes => bytes
  | _ => []

/-- The TX stream of one session (R34, R64). -/
def State.tx (s : State) (serial : Nat) : List Byte := (s.eventsOf serial).flatMap Event.txBytes

/-- The kind of an error event, as R290 lists them. -/
def ProtocolError.kind : ProtocolError → ErrorKind
  | .checksumMismatch _ _ _ => .checksumMismatch
  | .malformedLength _ _ => .malformedLength
  | .unknownTag _ _ => .unknownTag
  | .truncatedTag _ _ _ _ _ => .truncatedTag
  | .orphanBytes _ => .orphanBytes

/-- The error kind an event delivers, if any (R290, R295). -/
def Event.kind? : Event → Option ErrorKind
  | .protocolError e => some e.kind
  | .connectionClosed .error => some .socketError
  | .connectionClosed .timeout => some .timeout
  | .connectionClosed .stallLimit => some .stallLimit
  | _ => none

end Sys2Proof.Machine
end

