-- ==== Sys2Proof/Machine/Kinds.lean ====
section
/-! DEFINITION. The thirteen decode kinds as operations: each leaves the decoded value as its result (`43_record_decoder.md`
R172). They raise nothing and read no state. -/

namespace Sys2Proof.Machine
open Sys2Proof

/-- Deliver a decoded value. -/
def State.setValue (s : State) (v : Value) : State := s.done (.value v) []

/-- KIND_UINT8 (R173). -/
def execKindUint8 (b0 : Byte) (s : State) : Host.Outcome State Fault Refusal :=
  .next (s.setValue (decodeValue .uint8 [b0]))
/-- KIND_INT8 (R174). -/
def execKindInt8 (b0 : Byte) (s : State) : Host.Outcome State Fault Refusal :=
  .next (s.setValue (decodeValue .int8 [b0]))
/-- KIND_UINT16 (R175). -/
def execKindUint16 (b0 b1 : Byte) (s : State) : Host.Outcome State Fault Refusal :=
  .next (s.setValue (decodeValue .uint16 [b0, b1]))
/-- KIND_INT16 (R176). -/
def execKindInt16 (b0 b1 : Byte) (s : State) : Host.Outcome State Fault Refusal :=
  .next (s.setValue (decodeValue .int16 [b0, b1]))
/-- KIND_UINT32 (R177). -/
def execKindUint32 (b0 b1 b2 b3 : Byte) (s : State) : Host.Outcome State Fault Refusal :=
  .next (s.setValue (decodeValue .uint32 [b0, b1, b2, b3]))
/-- KIND_INT32 (R178). -/
def execKindInt32 (b0 b1 b2 b3 : Byte) (s : State) : Host.Outcome State Fault Refusal :=
  .next (s.setValue (decodeValue .int32 [b0, b1, b2, b3]))
/-- KIND_FIXEDSTRING (R179). -/
def execKindFixedString (v : List Byte) (s : State) : Host.Outcome State Fault Refusal :=
  .next (s.setValue (decodeValue (.fixedString v.length) v))
/-- KIND_DATETIMESECONDS (R187). -/
def execKindDateTimeSeconds (b0 b1 b2 b3 : Byte) (s : State) : Host.Outcome State Fault Refusal :=
  .next (s.setValue (decodeValue .dateTimeSeconds [b0, b1, b2, b3]))
/-- KIND_COORDINATES (R188). -/
def execKindCoordinates (q a0 a1 a2 a3 o0 o1 o2 o3 : Byte) (s : State) : Host.Outcome State Fault Refusal :=
  .next (s.setValue (decodeValue .coordinates [q, a0, a1, a2, a3, o0, o1, o2, o3]))
/-- KIND_SPEEDDIRECTION (R189). -/
def execKindSpeedDirection (s0 s1 d0 d1 : Byte) (s : State) : Host.Outcome State Fault Refusal :=
  .next (s.setValue (decodeValue .speedDirection [s0, s1, d0, d1]))
/-- KIND_STATUSBITS (R191). -/
def execKindStatusBits (b0 b1 : Byte) (s : State) : Host.Outcome State Fault Refusal :=
  .next (s.setValue (decodeValue .statusBits [b0, b1]))
/-- KIND_IOBITFIELD (R192). -/
def execKindIoBitfield (b0 b1 : Byte) (s : State) : Host.Outcome State Fault Refusal :=
  .next (s.setValue (decodeValue .ioBitfield [b0, b1]))
/-- KIND_MODBUSSCALED (R193). -/
def execKindModbusScaled (b0 b1 b2 b3 : Byte) (s : State) : Host.Outcome State Fault Refusal :=
  .next (s.setValue (decodeValue .modbusScaled [b0, b1, b2, b3]))

end Sys2Proof.Machine
end

