-- ==== Sys2Proof/Machine/Acks.lean ====
section
/-! DEFINITION. AckEncoder: BUILD_ACK and the two acknowledgements on the wire (`45_ack.md`). -/

namespace Sys2Proof.Machine
open Sys2Proof

/-- `buildAck(k)` (R235). -/
def buildAck (k : Half) : List Byte := [0x02, lo8 k, hi8 k]

/-- The sentinel acknowledgement (R7, R236). -/
def ackRejectBytes : List Byte := [0x02, 0x3F, 0x00]

/-- Both forms of BUILD_ACK. -/
def ackBytes : AckForm → List Byte
  | .normal k => buildAck k
  | .reject => ackRejectBytes

/-- BUILD_ACK (R235, R236): the three bytes are its result. -/
def execBuildAck (form : AckForm) (s : State) : Host.Outcome State Fault Refusal :=
  .next (s.done (.ack (ackBytes form)) [])

/-- Hand an acknowledgement to the TX stream of the current session (R64, R238; log entry 28). -/
def State.sendAck (s : State) (bytes : List Byte) : Host.Outcome State Fault Refusal :=
  match s.curSession with
  | some c => .next ((s.emit c [.ackRequired bytes]).done (.ack bytes) [.ackRequired bytes])
  | none => .refused .noSession

/-- ACK_OK (R235, R91). -/
def execAckOk (k : Half) (s : State) : Host.Outcome State Fault Refusal := s.sendAck (buildAck k)

/-- ACK_REJECT (R236, R91). -/
def execAckReject (s : State) : Host.Outcome State Fault Refusal := s.sendAck ackRejectBytes

end Sys2Proof.Machine
end

