-- ==== Sys2Proof/Machine/Checksum.lean ====
section
/-! DEFINITION. ChecksumEngine: CRC_COMPUTE and CRC_VALIDATE (`40_checksum.md`). -/

namespace Sys2Proof.Machine
open Sys2Proof

/-- `CRC_POLY` (R7). -/
def crcPoly : Half := 0xA001

/-- `CRC_INIT` (R7). -/
def crcInit : Half := 0xFFFF

/-- One shift step: bit 0 decides whether the polynomial is XORed in (R120). -/
def crcShift (crc : Half) : Half := if crc.getLsbD 0 then (crc >>> 1) ^^^ crcPoly else crc >>> 1

/-- Repeat the shift step. -/
def crcShifts : Nat → Half → Half
  | 0, crc => crc
  | n + 1, crc => crcShifts n (crcShift crc)

/-- One byte: XOR into the low 8 bits, then eight shift steps (R120, R121). -/
def crcByte (crc : Half) (b : Byte) : Half := crcShifts 8 (crc ^^^ b.setWidth 16)

/-- The loop of R120 over a span, from a given register value (R125). -/
def crcFrom (crc : Half) (M : List Byte) : Half := M.foldl crcByte crc

/-- `crc16(M)` (R120). -/
def crc16 (M : List Byte) : Half := crcFrom crcInit M

/-- `validate(M, rx)` (R123). -/
def validate (M : List Byte) (rx : Half) : Bool := checksumOk (crc16 M) rx

/-- CRC_COMPUTE (R120): the checksum is its result; the register `crc` does not outlive it (R124). -/
def execCrcCompute (m : List Byte) (s : State) : Host.Outcome State Fault Refusal :=
  .next (s.done (.checksum (crc16 m)) [])

/-- CRC_VALIDATE (R123): its result is one bit. -/
def execCrcValidate (m : List Byte) (rx : Half) (s : State) : Host.Outcome State Fault Refusal :=
  .next (s.done (.valid (validate m rx)) [])

end Sys2Proof.Machine
end

