-- ==== Sys2Proof/Machine/Framer.lean ====
section
/-! DEFINITION. FrameFramer and PacketClassifier: TRY_EXTRACT and CLASSIFY (`41_framer.md`, `42_classifier.md`). -/

namespace Sys2Proof.Machine
open Sys2Proof

/-- `tryExtract(B)` (R140), its tests in the order of R146. -/
def tryExtract (maxBodyLen : Nat) (B : List Byte) : ExtractResult :=
  if B.length < 3 then .incomplete
  else
    let raw := halfAt B 1
    let L := declaredLength raw
    if lengthOk maxBodyLen L = false then .badLength L 1
    else if B.length < L + 5 then .incomplete
    else
      let rx := halfAt B (L + 3)
      let computed := crc16 (B.take (L + 3))
      if checksumOk computed rx = false then .badChecksum rx computed (L + 5)
      else .complete
        { hdr := byteAt B 0, len := L, ap := archivePending raw, body := slice B 3 (L + 3), checksum := rx } (L + 5)

/-- The working registers and flags TRY_EXTRACT writes on its way to a result (R27, R28, R140). -/
def Work.extractRegs (w : Work) (maxBodyLen : Nat) (B : List Byte) : Work :=
  if B.length < 3 then w
  else
    let raw := halfAt B 1
    let L := declaredLength raw
    let w1 := { w with
      hdr := byteAt B 0, raw := raw, len := BitVec.ofNat 15 L, ap := archivePending raw, lenOk := lengthOk maxBodyLen L }
    if lengthOk maxBodyLen L = false then w1
    else
      let w2 := { w1 with total := BitVec.ofNat 16 (L + 5) }
      if B.length < L + 5 then w2
      else
        let rx := halfAt B (L + 3)
        let computed := crc16 (B.take (L + 3))
        { w2 with rx := rx, computed := computed, crc := computed, crcOk := checksumOk computed rx }

/-- The result of TRY_EXTRACT, read from its registers: `len_ok` selects the length failure, `crc_ok` Complete or the checksum
failure, `ap` goes into the frame (R28). -/
def Work.extractResult (w : Work) (B : List Byte) : ExtractResult :=
  if B.length < 3 then .incomplete
  else if w.lenOk = false then .badLength w.len.toNat 1
  else if B.length < w.total.toNat then .incomplete
  else if w.crcOk = false then .badChecksum w.rx w.computed w.total.toNat
  else .complete
    { hdr := w.hdr, len := w.len.toNat, ap := w.ap, body := slice B 3 (w.len.toNat + 3), checksum := w.rx } w.total.toNat

/-- TRY_EXTRACT (R140), through its registers and flags, which do not outlive it (R27): it does not change any buffer. -/
def execTryExtract (b : List Byte) (s : State) : Host.Outcome State Fault Refusal :=
  .next (s.done (.extract ((s.work.extractRegs s.cfg.maxBodyLen b).extractResult b)) [])

/-- `classify(hdr)` (R160). -/
def classify (hdr : Byte) : FrameClass :=
  if hdr = 0x01 then .telemetry else if hdr = 0x15 then .ignorable else .extension

/-- CLASSIFY (R160). -/
def execClassify (hdr : Byte) (s : State) : Host.Outcome State Fault Refusal :=
  .next (s.done (.frameClass (classify hdr)) [])

end Sys2Proof.Machine
end

