-- ==== Sys2Proof/Machine/Records.lean ====
section
/-! DEFINITION. RecordDecoder and ExtendedTagDecoder: the walk of R180 and R195 over a segment's bytes, one shared operation per
item, and the operations of the rows TAG8, TAG16, DECODE_RECORD and DECODE_EXT (`43_record_decoder.md`). -/

namespace Sys2Proof.Machine
open Sys2Proof

/-- What a record's decoding carries from tag to tag: `off`, the entries, the session's `lastIMEI`, the events (R180). -/
structure Dec where
  off     : Nat
  entries : List Entry
  imei    : Option (List Byte)
  out     : List Event
deriving DecidableEq, Repr

/-- What an extended block's decoding carries from item to item: the entries and the events (R195). -/
structure Blk where
  entries : List Entry
  out     : List Event
deriving DecidableEq, Repr

/-- One extended item (R195): id `x` at offset `p`, followed by `value`, at most the item's width of bytes. Known and whole:
an entry. Known and cut off: TruncatedTag(Ext) (R200). Unknown: UnknownTag (R199). -/
def extItem (reg : Registry) (x : Half) (value : List Byte) (p : Nat) (b : Blk) : Blk :=
  match reg.extDef x with
  | some d =>
    if value.length < d.kind.width then
      { b with out := raise (.truncatedTag .ext (some (.ext x)) p d.kind.width value.length) b.out }
    else
      let V := value.take d.kind.width
      { b with entries := b.entries ++ [⟨.ext x, d.kind, V, decodeValue d.kind V⟩] }
  | none => { b with out := raise (.unknownTag (.ext x) p) b.out }

/-- The loop of R195 over the block's remaining bytes, the first of them at offset `p`. Each round takes at least one byte,
so the block's length is fuel enough (R181). An item cut off leaves no byte, which ends the loop; one byte left over is R198. -/
def extLoop (reg : Registry) : Nat → List Byte → Nat → Blk → Blk
  | 0, _, _, b => b
  | _ + 1, [], _, b => b
  | _ + 1, [_], p, b => { b with out := raise (.truncatedTag .extTagId none p 2 1) b.out }
  | fuel + 1, x0 :: x1 :: rest, p, b =>
    let x := halfAt [x0, x1] 0
    let w := reg.extWidth x
    extLoop reg fuel (rest.drop w) (p + 2 + w) (extItem reg x (rest.take w) p b)

/-- `decodeExt(body, off, end, tagAt)` (R195), `rest` the bytes `body[off..end)`: the entries and events of the block, and
the offset the main parser resumes at (R196). -/
def decodeExt (reg : Registry) (rest : List Byte) (off stop tagAt : Nat) : Blk × Nat :=
  if rest.length < 2 then
    (⟨[], raise (.truncatedTag .extLength (some (.main tagESCAPE)) tagAt 2 rest.length) []⟩, stop)
  else
    let n := u16le rest 0
    let items := (rest.drop 2).take n
    let whole := decide (n ≤ (rest.drop 2).length)
    let out := if whole then []
      else raise (.truncatedTag .extBlock (some (.main tagESCAPE)) tagAt n (rest.drop 2).length) []
    (extLoop reg items.length items (off + 2) ⟨[], out⟩, if whole then off + 2 + n else stop)

/-- The escape's round of R180: the block's entries join the Record (R201); `lastIMEI` is not touched. -/
def escapeItem (reg : Registry) (rest : List Byte) (stop : Nat) (d : Dec) : Dec :=
  let r := decodeExt reg rest (d.off + 1) stop d.off
  { d with entries := d.entries ++ r.1.entries, out := d.out ++ r.1.out, off := r.2 }

/-- A known or unknown tag's round of R180: id `t` at `d.off`, followed by `value`, at most the item's width of bytes. Known and
whole: an entry (R183), and for 0x03 the IMEI (R190). Known and cut off: TruncatedTag, the record ends (R184). Unknown: UnknownTag,
the skip stops at the segment's end (R185). -/
def mainItem (reg : Registry) (t : Byte) (value : List Byte) (stop : Nat) (d : Dec) : Dec :=
  match reg.mainDef t with
  | some f =>
    if value.length < f.kind.width then
      { d with out := raise (.truncatedTag .main (some (.main t)) d.off f.kind.width value.length) d.out, off := stop }
    else
      let V := value.take f.kind.width
      { d with
        entries := d.entries ++ [⟨.main t, f.kind, V, decodeValue f.kind V⟩]
        imei := if t = tagIMEI then some V else d.imei
        off := d.off + 1 + f.kind.width }
  | none =>
    { d with out := raise (.unknownTag (.main t) d.off) d.out, off := d.off + 1 + min unknownSkip value.length }

/-- The loop of R180 over the segment's remaining bytes, the first of them at offset `d.off`. The escape test comes first
(R182). -/
def mainLoop (reg : Registry) (stop : Nat) : Nat → List Byte → Dec → Dec
  | 0, _, d => d
  | _ + 1, [], d => d
  | fuel + 1, t :: rest, d =>
    if t = tagESCAPE then
      mainLoop reg stop fuel ((rest.drop 2).drop (u16le rest 0)) (escapeItem reg rest stop d)
    else
      let w := reg.mainWidth t
      mainLoop reg stop fuel (rest.drop w) (mainItem reg t (rest.take w) stop d)

/-- `decodeRecord(body, start, end, s)` (R170, R180), with the session's `lastIMEI` as it stands before. -/
def decodeRecord (reg : Registry) (body : List Byte) (start stop : Nat) (imei : Option (List Byte)) : Dec :=
  mainLoop reg stop (stop - start) (slice body start stop) ⟨start, [], imei, []⟩

/-- The `lastIMEI` of the context the working registers serve. -/
def State.curIMEI (s : State) : Option (List Byte) :=
  match s.curSession with
  | some c => c.lastIMEI
  | none => none

/-- Write `lastIMEI` of the context the working registers serve, when it is open (R190). -/
def State.setIMEI (s : State) (imei : Option (List Byte)) : State :=
  match s.curSession with
  | some c => s.setCtx s.cur { c with lastIMEI := imei }
  | none => s

/-- The registers in a DECODE_RECORD that goes on: its own keep their values (R31), every other is unspecified, a free value
(R27; log entry 30). -/
def State.inRecord (s : State) : Work :=
  { Config.freeWork s.free with
    body := s.work.body, off := s.work.off, stop := s.work.stop, tag := s.work.tag
    entries := s.work.entries, out := s.work.out }

/-- The registers in a DECODE_EXT that goes on inside its DECODE_RECORD (log entry 30). -/
def State.inBlock (s : State) : Work :=
  { s.inRecord with n := s.work.n, blkEnd := s.work.blkEnd, p := s.work.p, x := s.work.x }

/-- The end of one round of a decoder's loop, which goes on: the registers it leaves; the round's events join `out`. -/
def State.afterRound (s : State) (w : Work) (events : List Event) : State :=
  { s with work := { w with out := s.work.out ++ events }, free := s.free + 1, ret := ⟨.nothing, events⟩ }

/-- One round of R180 on the working registers, for a tag that is not the escape. The escape is tested by the decoder (R182): a term
TAG_KNOWN or TAG_UNKNOWN with id 0xFE, which no bytes decode to, is looked up here like any id (DESIGN CHOICE, log entry 24). -/
def State.tagRound (s : State) (t : Byte) (value : List Byte) : State :=
  let d := mainItem s.reg t value s.work.stop.toNat ⟨s.work.off.toNat, s.work.entries, s.curIMEI, []⟩
  (s.afterRound { s.inRecord with tag := t, off := BitVec.ofNat 16 d.off, entries := d.entries } d.out).setIMEI d.imei

/-- One round of R195 on the working registers. An item that does not fit leaves the loop: the block is used up and the main offset
stands behind it (R200, R196, R306; log entry 21). -/
def State.xtagRound (s : State) (x : Half) (value : List Byte) : State :=
  let b := extItem s.reg x value s.work.p.toNat ⟨s.work.entries, []⟩
  let w := s.reg.extWidth x
  let cut := (s.reg.extDef x).isSome && decide (value.length < w)
  s.afterRound { s.inBlock with
    x := x, entries := b.entries
    p := if cut then s.work.blkEnd.setWidth 16 else s.work.p + 2 + BitVec.ofNat 16 (min w value.length)
    off := if cut then s.work.blkEnd.setWidth 16 else s.work.off } b.out

/-- TAG_ESCAPE (R182, R195, R196, R201): the whole block is decoded; the registers of DECODE_EXT end with it (R27). -/
def execTagEscape (len items : List Byte) (s : State) : Host.Outcome State Fault Refusal :=
  let d := escapeItem s.reg (len ++ items) s.work.stop.toNat ⟨s.work.off.toNat, s.work.entries, none, []⟩
  .next (s.afterRound { s.inRecord with
    tag := tagESCAPE, off := BitVec.ofNat 16 d.off, entries := d.entries } d.out)

/-- TAG_IMEI (R183, R184, R190): needs the session whose `lastIMEI` it updates. -/
def execTagImei (value : List Byte) (s : State) : Host.Outcome State Fault Refusal :=
  match s.curSession with
  | some _ => .next (s.tagRound tagIMEI value)
  | none => .refused .noSession

/-- TAG_RECSTART: as a tag, 0x10 is looked up like any other (R223, R183, R184, R185). -/
def execTagRecstart (value : List Byte) (s : State) : Host.Outcome State Fault Refusal :=
  .next (s.tagRound tagRECSTART value)

/-- TAG_KNOWN (R183, R184). -/
def execTagKnown (t : Byte) (value : List Byte) (s : State) : Host.Outcome State Fault Refusal :=
  .next (s.tagRound t value)

/-- TAG_UNKNOWN (R185). -/
def execTagUnknown (t : Byte) (skipped : List Byte) (s : State) : Host.Outcome State Fault Refusal :=
  .next (s.tagRound t skipped)

/-- XTAG_MODBUS: extended id 0x0001, looked up like any other (R86, R193, R195). -/
def execXtagModbus (value : List Byte) (s : State) : Host.Outcome State Fault Refusal :=
  .next (s.xtagRound 1 value)

/-- XTAG_KNOWN (R195, R200). -/
def execXtagKnown (x : Half) (value : List Byte) (s : State) : Host.Outcome State Fault Refusal :=
  .next (s.xtagRound x value)

/-- XTAG_UNKNOWN (R199). -/
def execXtagUnknown (x : Half) (skipped : List Byte) (s : State) : Host.Outcome State Fault Refusal :=
  .next (s.xtagRound x skipped)

/-- DECODE_RECORD (R170, R180): it writes the session's `lastIMEI` and returns the entries, `next` and its events. The session is an
open one (log entry 31), the segment lies in the body (log entry 20). -/
def execDecodeRecord (cid : Nat) (body : List Byte) (start stop : Nat) (s : State) :
    Host.Outcome State Fault Refusal :=
  match s.findCtx openPhase cid with
  | none => .refused .cidNotOpen
  | some (k, c) =>
    if body.length ≤ 32767 ∧ start ≤ stop ∧ stop ≤ body.length then
      let d := decodeRecord s.reg body start stop c.lastIMEI
      .next (({ s with cur := k }.setCtx k { c with lastIMEI := d.imei }).done (.entries d.entries d.off) d.out)
    else .fault .spanOverrun

/-- DECODE_EXT (R195): it returns the entries, the offset behind the block and its events; no session is touched. The offsets lie in
the body (log entry 20). -/
def execDecodeExt (body : List Byte) (off stop tagAt : Nat) (s : State) : Host.Outcome State Fault Refusal :=
  if body.length ≤ 32767 ∧ off ≤ stop ∧ stop ≤ body.length then
    let r := decodeExt s.reg (slice body off stop) off stop tagAt
    .next (s.done (.entries r.1.entries r.2) r.1.out)
  else .fault .spanOverrun

end Sys2Proof.Machine
end

