-- ==== Sys2Proof/Machine/Splitter.lean ====
section
/-! DEFINITION. MultiRecordSplitter: SPLIT (`44_splitter.md`). -/

namespace Sys2Proof.Machine
open Sys2Proof

/-- `SPLIT_THRESHOLD` (R7). -/
def splitThreshold : Nat := 32

/-- The offsets, from `i` on, of the bytes 0x10, ascending (R222). -/
def markersFrom : Nat → List Byte → List Nat
  | _, [] => []
  | i, b :: bs => if b = tagRECSTART then i :: markersFrom (i + 1) bs else markersFrom (i + 1) bs

/-- Each offset starts a segment that ends at the next, the last at `L` (R223). -/
def segmentsOf : List Nat → Nat → List (Nat × Nat)
  | [], _ => []
  | [p], L => [(p, L)]
  | p :: q :: ps, L => (p, q) :: segmentsOf (q :: ps) L

/-- `split(body, L)` (R220). -/
def split (body : List Byte) (L : Nat) : List (Nat × Nat) × Nat :=
  if L < splitThreshold then ([(0, L)], 0)
  else
    match markersFrom 0 body with
    | [] => ([], L)
    | p :: ps => (segmentsOf (p :: ps) L, p)

/-- SPLIT (R220), on a body of the declared length, at most 32767 bytes; `len` and the body's length are one number in the
spec, and operands that are no such pair stop (log entry 20). -/
def execSplit (body : List Byte) (len : Nat) (s : State) : Host.Outcome State Fault Refusal :=
  if body.length ≤ 32767 ∧ len = body.length then
    .next (s.done (.segments (split body len).1 (split body len).2) [])
  else .fault .spanOverrun

end Sys2Proof.Machine
end

