-- ==== Sys2Proof/Machine/Frames.lean ====
section
/-! DEFINITION. The frame step, PROCESS_TELEMETRY, and the three frame classes (`46_session.md` R256 to R260;
`42_classifier.md` R161 to R163). -/

namespace Sys2Proof.Machine
open Sys2Proof

/-- The loop of R257 over the segments: each yields its errors and then exactly one Record, labelled with `lastIMEI` after the
segment (R258). -/
def decodeSegments (reg : Registry) (body : List Byte) :
    List (Nat × Nat) → Option (List Byte) → Option (List Byte) × List Event
  | [], imei => (imei, [])
  | (start, stop) :: segs, imei =>
    let d := decodeRecord reg body start stop imei
    let r := decodeSegments reg body segs d.imei
    (r.1, d.out ++ .record d.imei d.entries :: r.2)

/-- PROCESS_TELEMETRY (R257). -/
def processTelemetry (reg : Registry) (f : Frame) (imei : Option (List Byte)) : Option (List Byte) × List Event :=
  let sp := split f.body f.len
  let r := decodeSegments reg f.body sp.1 imei
  (r.1, (if 0 < sp.2 then raise (.orphanBytes sp.2) [] else []) ++ r.2)

/-- What a Complete frame does besides leaving the buffer (R256, R259): its `Frame` event, for Telemetry its records, and its
acknowledgement last. -/
def completeFrame (reg : Registry) (f : Frame) (imei : Option (List Byte)) : Option (List Byte) × List Event :=
  let cls := classify f.hdr
  let r := if cls = .telemetry then processTelemetry reg f imei else (imei, [])
  (r.1, .frame cls f.hdr f.ap f.body :: r.2 ++ [.ackRequired (ackBytes (.normal f.checksum))])

/-- The phase after the append or after a frame step (R260). -/
def phaseAfter (cfg : Config) (buf : List Byte) : Phase :=
  if tryExtract cfg.maxBodyLen buf = .incomplete then .idle else .hasCompleteFrames

/-- The same context in the phase its buffer calls for. -/
def Session.settle (cfg : Config) (c : Session) : Session := { c with phase := phaseAfter cfg c.buf }

/-- FRAME_STEP on one session (R256): none when `r` is Incomplete, for which it is not defined; otherwise the session after it and
its events. The recoveries of ChecksumMismatch and MalformedLength are those of R292, R294 and R306. -/
def Session.frameStep (cfg : Config) (reg : Registry) (c : Session) : Option (Session × List Event) :=
  match tryExtract cfg.maxBodyLen c.buf with
  | .incomplete => none
  | .badLength L k =>
    some ((c.bufDrop k).settle cfg, raise (.malformedLength L (byteAt c.buf 0)) [])
  | .badChecksum rx computed T =>
    some ((c.bufDrop T).settle cfg,
      raise (.checksumMismatch rx computed T) [] ++ [.ackRequired (ackBytes .reject)])
  | .complete f T =>
    let r := completeFrame reg f c.lastIMEI
    some ({ (c.bufDrop T).settle cfg with lastIMEI := r.1 }, r.2)

/-- The frame step of context `k`, its events logged; atomic (R65). -/
def State.frameStepAt (s : State) (k : Nat) (c : Session) : Host.Outcome State Fault Refusal :=
  match c.frameStep s.cfg s.reg with
  | none => .refused .noCompleteFrame
  | some (c', evs) => .next (((s.setCtx k c').emit c evs).done .nothing evs)

/-- A frame class of the opcode table: the frame step of the current context, at the front of whose buffer this frame
stands (R23, R59). -/
def State.frameRow (s : State) (bytes : List Byte) : Host.Outcome State Fault Refusal :=
  match s.ctxs[s.cur]? with
  | some c =>
    if c.phase = .hasCompleteFrames then
      if bytes.isPrefixOf c.buf then s.frameStepAt s.cur c else .refused .frameNotAtFront
    else .refused .noFrameStepDue
  | none => .refused .noFrameStepDue

/-- TELEMETRY (R161): its body is decoded into records, and it is acked. -/
def execTelemetry (ap : Bool) (body : List Byte) (crc : Half) (s : State) : Host.Outcome State Fault Refusal :=
  s.frameRow (frameBytes 0x01 ap body crc)

/-- KEEPALIVE (R162): acked, not decoded. -/
def execKeepalive (ap : Bool) (body : List Byte) (crc : Half) (s : State) : Host.Outcome State Fault Refusal :=
  s.frameRow (frameBytes 0x15 ap body crc)

/-- EXTENSION (R163): passed through unparsed, acked. -/
def execExtension (hdr : Byte) (ap : Bool) (body : List Byte) (crc : Half) (s : State) :
    Host.Outcome State Fault Refusal :=
  s.frameRow (frameBytes hdr ap body crc)

/-- The phase of a session whose frame step is due. -/
def duePhase (p : Phase) : Bool := p == .hasCompleteFrames

/-- FRAME_STEP(s, r) (R256). -/
def execFrameStep (cid : Nat) (s : State) : Host.Outcome State Fault Refusal :=
  match s.findCtx duePhase cid with
  | some (k, c) => { s with cur := k }.frameStepAt k c
  | none => .refused .noFrameStepDue

end Sys2Proof.Machine
end

