-- ==== Sys2Proof/Machine/Sessions.lean ====
section
/-! DEFINITION. The host operations OPEN, FEED, CLOSE, REGISTER_TAG and RESET, and the end of a FEED (`46_session.md`;
`70_reset_and_hazards.md` R330). A misuse by the host is refused and changes nothing (R299). -/

namespace Sys2Proof.Machine
open Sys2Proof

/-- A context right after OPEN(cid, t) (R250, R38), serving a new session (R35; log entry 11). -/
def Session.opened (cid t serial : Nat) : Session :=
  { phase := .awaitingData, cid := cid, buf := [], lastIMEI := none, createdAt := t, lastActivityAt := t, serial := serial }

/-- OPEN (R250, R251). -/
def execOpenSession (cid t : Nat) (s : State) : Host.Outcome State Fault Refusal :=
  if cid < 2 ^ s.cfg.cidW ∧ t < 2 ^ s.cfg.tsW then
    match s.findCtx openPhase cid with
    | some _ => .refused .cidAlreadyOpen
    | none =>
      match s.freeContext with
      | none => .refused .noFreeContext
      | some k =>
        .next ({ (s.setCtx k (Session.opened cid t (s.opened + 1))) with
          slots := s.slots.tail, opened := s.opened + 1 }.done .nothing [])
  else .refused .operandTooWide

/-- The phase in which FEED is accepted (R253). -/
def waitingPhase (p : Phase) : Bool := p == .awaitingData

/-- FEED (R252, R253), up to its frame steps, which follow as steps of their own (R265, log entry 12): the timestamp, the
append, the phase of R260. An empty chunk does nothing at all: it returns no event. -/
def execFeed (cid : Nat) (chunk : List Byte) (t : Nat) (s : State) : Host.Outcome State Fault Refusal :=
  if t < 2 ^ s.cfg.tsW then
    match s.findCtx waitingPhase cid with
    | none => .refused .notAwaitingData
    | some (k, c) =>
      if chunk = [] then .next { s with ret := ⟨.nothing, []⟩ }
      else .next ((s.setCtx k (({ c with lastActivityAt := t }.bufAppend chunk).settle s.cfg)).done .nothing [])
  else .refused .operandTooWide

/-- The stall test of R62: more than STALL_LIMIT bytes are buffered. -/
def stalled (cfg : Config) (buf : List Byte) : Bool :=
  match cfg.stallLimit with
  | some m => decide (m < buf.length)
  | none => false

/-- The end of a FEED (R252, R260, R263): the stall test, then back to AwaitingData. -/
def State.endFeed (s : State) (k : Nat) (c : Session) : State :=
  if stalled s.cfg c.buf then s.closeContext k c .stallLimit
  else s.setCtx k { c with phase := .awaitingData }

/-- CLOSE (R262), in any open phase: between frame steps too (R265). -/
def execCloseSession (cid : Nat) (reason : HostReason) (s : State) : Host.Outcome State Fault Refusal :=
  match s.findCtx openPhase cid with
  | none => .refused .cidNotOpen
  | some (k, c) => .next (s.closeContext k c (closeReasonOf reason))

/-- REGISTER_TAG (R264). -/
def execRegisterTag (id : TagId) (kind : Kind) (label : Label) (s : State) : Host.Outcome State Fault Refusal :=
  if s.ctxs.any Session.isOpen then .refused .sessionOpen
  else
    let reg := s.reg.register id kind label
    if reg.legal then .next ({ s with reg := reg }.done .nothing []) else .refused .illegalRegistry

/-- RESET (R330): every context Closed and empty, no event; the registry and the parameters stay (R333). -/
def execResetBlock (s : State) : Host.Outcome State Fault Refusal :=
  .next ({ s with ctxs := closeAll s.cfg s.free s.ctxs, free := s.free + 3 * s.ctxs.length }.done .nothing [])

end Sys2Proof.Machine
end

