-- ==== Sys2Proof/Machine/Dispatch.lean ====
section
/-! DEFINITION. exec: one arm per constructor of Instr, each one call of the instruction's meaning. -/

namespace Sys2Proof.Machine
open Sys2Proof

def exec (i : Instr) (s : State) : Host.Outcome State Fault Refusal :=
  match i with
  | .telemetry ap body crc => Sys2Proof.Machine.execTelemetry ap body crc s
  | .keepalive ap body crc => Sys2Proof.Machine.execKeepalive ap body crc s
  | .extension hdr ap body crc => Sys2Proof.Machine.execExtension hdr ap body crc s
  | .tagEscape len items => Sys2Proof.Machine.execTagEscape len items s
  | .tagImei value => Sys2Proof.Machine.execTagImei value s
  | .tagRecstart value => Sys2Proof.Machine.execTagRecstart value s
  | .tagKnown t value => Sys2Proof.Machine.execTagKnown t value s
  | .tagUnknown t skipped => Sys2Proof.Machine.execTagUnknown t skipped s
  | .xtagModbus value => Sys2Proof.Machine.execXtagModbus value s
  | .xtagKnown x value => Sys2Proof.Machine.execXtagKnown x value s
  | .xtagUnknown x skipped => Sys2Proof.Machine.execXtagUnknown x skipped s
  | .kindUint8 b0 => Sys2Proof.Machine.execKindUint8 b0 s
  | .kindInt8 b0 => Sys2Proof.Machine.execKindInt8 b0 s
  | .kindUint16 b0 b1 => Sys2Proof.Machine.execKindUint16 b0 b1 s
  | .kindInt16 b0 b1 => Sys2Proof.Machine.execKindInt16 b0 b1 s
  | .kindUint32 b0 b1 b2 b3 => Sys2Proof.Machine.execKindUint32 b0 b1 b2 b3 s
  | .kindInt32 b0 b1 b2 b3 => Sys2Proof.Machine.execKindInt32 b0 b1 b2 b3 s
  | .kindFixedString v => Sys2Proof.Machine.execKindFixedString v s
  | .kindDateTimeSeconds b0 b1 b2 b3 => Sys2Proof.Machine.execKindDateTimeSeconds b0 b1 b2 b3 s
  | .kindCoordinates q a0 a1 a2 a3 o0 o1 o2 o3 => Sys2Proof.Machine.execKindCoordinates q a0 a1 a2 a3 o0 o1 o2 o3 s
  | .kindSpeedDirection s0 s1 d0 d1 => Sys2Proof.Machine.execKindSpeedDirection s0 s1 d0 d1 s
  | .kindStatusBits b0 b1 => Sys2Proof.Machine.execKindStatusBits b0 b1 s
  | .kindIoBitfield b0 b1 => Sys2Proof.Machine.execKindIoBitfield b0 b1 s
  | .kindModbusScaled b0 b1 b2 b3 => Sys2Proof.Machine.execKindModbusScaled b0 b1 b2 b3 s
  | .ackOk k => Sys2Proof.Machine.execAckOk k s
  | .ackReject => Sys2Proof.Machine.execAckReject s
  | .openSession cid t => Sys2Proof.Machine.execOpenSession cid t s
  | .feed cid chunk t => Sys2Proof.Machine.execFeed cid chunk t s
  | .closeSession cid reason => Sys2Proof.Machine.execCloseSession cid reason s
  | .registerTag id kind label => Sys2Proof.Machine.execRegisterTag id kind label s
  | .resetBlock => Sys2Proof.Machine.execResetBlock s
  | .crcCompute m => Sys2Proof.Machine.execCrcCompute m s
  | .crcValidate m rx => Sys2Proof.Machine.execCrcValidate m rx s
  | .tryExtract b => Sys2Proof.Machine.execTryExtract b s
  | .classify hdr => Sys2Proof.Machine.execClassify hdr s
  | .split body len => Sys2Proof.Machine.execSplit body len s
  | .decodeRecord cid body start stop => Sys2Proof.Machine.execDecodeRecord cid body start stop s
  | .decodeExt body off stop tagAt => Sys2Proof.Machine.execDecodeExt body off stop tagAt s
  | .buildAck form => Sys2Proof.Machine.execBuildAck form s
  | .frameStep cid => Sys2Proof.Machine.execFrameStep cid s

end Sys2Proof.Machine
end

