-- ==== Sys2Proof/Machine/Fetch.lean ====
section
/-! DEFINITION. What the next step runs: the choice of the agent that moves, the frame at the front of a buffer, the
operation at the head of the queue, the item on the bench (`10_state.md` R30; `20_memory.md` R63; `46_session.md` R255, R260, R265). -/

namespace Sys2Proof.Machine
open Sys2Proof

/-- What a step finds to do. -/
inductive Fetched where
  /-- Nothing is due: the block waits (R316). -/
  | wait
  /-- Run this operation, in this state. -/
  | run (i : Instr) (s : State)
  /-- The end of a FEED, the state after it. -/
  | feedEnd (s : State)
  /-- The bytes presented decode to nothing. -/
  | reject (e : DecodeError)

/-- A session in HasCompleteFrames or Idle has a step of its own to make (R260). -/
def Session.isDue (c : Session) : Bool := c.phase == .hasCompleteFrames || c.phase == .idle

/-- Context `k` has a step of its own to make. -/
def State.due (s : State) (k : Nat) : Bool :=
  match s.ctxs[k]? with
  | some c => c.isDue
  | none => false

/-- The instruction a host operation is. -/
def HostOp.instr : HostOp → Instr
  | .openSession cid t => .openSession cid t
  | .feed cid chunk t => .feed cid chunk t
  | .closeSession cid reason => .closeSession cid reason
  | .registerTag id kind label => .registerTag id kind label
  | .resetBlock => .resetBlock

/-- The instruction an internal operation is. -/
def IntOp.instr : IntOp → Instr
  | .crcCompute m => .crcCompute m
  | .crcValidate m rx => .crcValidate m rx
  | .tryExtract b => .tryExtract b
  | .classify hdr => .classify hdr
  | .split body len => .split body len
  | .decodeRecord cid body start stop => .decodeRecord cid body start stop
  | .decodeExt body off stop tagAt => .decodeExt body off stop tagAt
  | .buildAck form => .buildAck form
  | .frameStep cid => .frameStep cid

/-- Who moves when the oracle names nobody that can: a due session, the lowest first, else the host, else the bench (log entry
8). -/
def State.defaultTurn (s : State) : Option Turn :=
  match s.ctxs.findIdx? Session.isDue with
  | some k => some (.session k)
  | none => if s.queue = [] then (if s.bench = [] then none else some .bench) else some .host

/-- The agent has something to do. -/
def State.canMove (s : State) : Turn → Bool
  | .host => !s.queue.isEmpty
  | .bench => !s.bench.isEmpty
  | .session k => s.due k

/-- Who moves next (R63, R265; log entry 8). -/
def State.pick (s : State) : Option Turn :=
  match s.sched with
  | turn :: _ => if s.canMove turn then some turn else s.defaultTurn
  | [] => s.defaultTurn

/-- A due session's own step: in HasCompleteFrames the frame at the front of its buffer, decoded by its header byte, or
FRAME_STEP when no whole frame stands there; in Idle the end of its FEED. -/
def State.fetchSession (s : State) (k : Nat) : Fetched :=
  match s.ctxs[k]? with
  | none => .wait
  | some c =>
    if c.phase = .idle then .feedEnd (s.endFeed k c)
    else
      match decode s.reg .frameHdr c.buf with
      | .ok (i, _) => .run i { s with cur := k }
      | .error _ => .run (.frameStep c.cid) { s with cur := k }

/-- Begin the decoding of a tag item presented alone: its bytes are the span, the item stands at its offset 0 (log entry 15). -/
def State.loadSpan (s : State) (f : Format) (bytes : List Byte) : State :=
  match f with
  | .tag8 => { s with work := { s.work with
      body := bytes, off := 0, stop := BitVec.ofNat 16 bytes.length, entries := [], out := [] } }
  | .tag16 => { s with work := { s.work with
      body := bytes, off := 0, stop := BitVec.ofNat 16 bytes.length, tag := tagESCAPE, n := BitVec.ofNat 16 bytes.length
      p := 0, blkEnd := BitVec.ofNat 17 bytes.length, entries := [], out := [] } }
  | _ => s

/-- The host operation at the head of the queue (R311). -/
def State.fetchHost (s : State) : Fetched :=
  match s.queue with
  | [] => .wait
  | o :: rest => .run o.instr { s with queue := rest }

/-- What stands first on the bench (log entry 15). -/
def State.fetchBench (s : State) : Fetched :=
  match s.bench with
  | [] => .wait
  | .op o :: rest => .run o.instr { s with bench := rest }
  | .item f bytes :: rest =>
    match decode s.reg f bytes with
    | .ok (i, _) => .run i ({ s with bench := rest }.loadSpan f bytes)
    | .error e => .reject e

/-- What the next step does. The oracle's head is used up whenever somebody moves. -/
def State.fetch (s : State) : Fetched :=
  match s.pick with
  | none => .wait
  | some .host => { s with sched := s.sched.tail }.fetchHost
  | some .bench => { s with sched := s.sched.tail }.fetchBench
  | some (.session k) => { s with sched := s.sched.tail }.fetchSession k

/-- Open context 0, as session `serial`, if it is Closed: the tag items and acknowledgements of the table belong to a session. -/
def openFirst (serial : Nat) : List Session → List Session
  | [] => []
  | c :: cs => (if c.isOpen then c else { c with phase := .awaitingData, serial := serial }) :: cs

/-- Give context 0, as session `serial`, a buffer whose frame step is due. -/
def loadFirst (serial : Nat) (bytes : List Byte) : List Session → List Session
  | [] => []
  | c :: cs => { c with phase := .hasCompleteFrames, buf := bytes, serial := serial } :: cs

/-- Present an opcode-table word so that the very next step fetches it: a frame stands at the front of context 0's buffer, its
frame step due; any other item stands first on the bench (log entry 10). -/
def State.presentWord (s : State) (nbits w : Nat) : State :=
  match tableFormat nbits w with
  | .frameHdr => { s with
      ctxs := loadFirst (s.opened + 1) (tableBytes nbits w) s.ctxs, opened := s.opened + 1, sched := .session 0 :: s.sched }
  | f => { s with
      ctxs := openFirst (s.opened + 1) s.ctxs, opened := s.opened + 1, cur := 0
      bench := .item f (tableBytes nbits w) :: s.bench, sched := .bench :: s.sched }

end Sys2Proof.Machine
end

