-- ==== Sys2Proof/Machine/Step.lean ====
section
/-! DEFINITION. One step of the block, and the placing of an opcode-table word where the step fetches. -/

namespace Sys2Proof.Machine
open Sys2Proof

/-- One step: run the operation fetched, or end a FEED, or wait. Waiting is a next state, the same one (R316; log entry 6). -/
def step (s : State) : Host.Outcome State Fault Refusal :=
  match s.fetch with
  | .wait => .next s
  | .run i s' => exec i s'
  | .feedEnd s' => .next s'
  | .reject e => .refused (.undecodable e)

/-- `s` with the opcode-table word where `step` fetches its next instruction. -/
def State.withFetchWord (s : State) (nbits w : Nat) : State := s.presentWord nbits w

end Sys2Proof.Machine
end

