-- ==== Sys2Proof/Safety.lean ====
section
/-! DEFINITION. The terms claims use: the invariant of every reachable state, the FEED operation as one transaction
(R252), and the walk of a record by the rows of the opcode table. -/

namespace Sys2Proof.Machine
open Sys2Proof

/-- What holds of a session context between two steps (R21, R23, R24, R38, R60, R62, R260, R261). -/
def Session.Wf (cfg : Config) (c : Session) : Prop :=
  c.cid < 2 ^ cfg.cidW ∧ c.createdAt < 2 ^ cfg.tsW ∧ c.lastActivityAt < 2 ^ cfg.tsW
    ∧ (∀ v, c.lastIMEI = some v → v.length = 15)
    ∧ (c.phase = .closed → c.buf = [] ∧ c.lastIMEI = none)
    ∧ (c.phase = .awaitingData → tryExtract cfg.maxBodyLen c.buf = .incomplete ∧ stalled cfg c.buf = false)
    ∧ (c.phase = .idle → tryExtract cfg.maxBodyLen c.buf = .incomplete)
    ∧ (c.phase = .hasCompleteFrames → tryExtract cfg.maxBodyLen c.buf ≠ .incomplete)

/-- What holds of the block between two steps: legal parameters (R8), N_SESS contexts (R20), a legal registry in its canonical
form (R9), well-formed contexts, distinct identifiers of open sessions (R25, R251), and session numbers that OPEN has given out, no
two open sessions with the same (R35; log entry 11). -/
def State.Inv (s : State) : Prop :=
  s.cfg.legal = true ∧ s.ctxs.length = s.cfg.nSess ∧ s.reg.legal = true ∧ Memory.wf s = true
    ∧ (∀ c ∈ s.ctxs, c.Wf s.cfg ∧ c.serial ≤ s.opened) ∧ (∀ e ∈ s.log, e.serial ≤ s.opened)
    ∧ s.ctxs.Pairwise fun a b => a.isOpen = true → b.isOpen = true → a.cid ≠ b.cid ∧ a.serial ≠ b.serial

/-- The extraction loop of R255 on one session, at most `fuel` frame steps: the session after it and its events. -/
def drain (cfg : Config) (reg : Registry) : Nat → Session → Session × List Event
  | 0, c => (c, [])
  | fuel + 1, c =>
    match c.frameStep cfg reg with
    | none => (c, [])
    | some (c', evs) =>
      let r := drain cfg reg fuel c'
      (r.1, evs ++ r.2)

/-- The whole of FEED (R252) up to its stall test, as one transaction on one session: the append and the extraction loop, run to
Incomplete. A frame step takes at least one byte (R147), so the buffer's length is fuel enough. -/
def feedDrained (cfg : Config) (reg : Registry) (c : Session) (chunk : List Byte) (t : Nat) :
    Session × List Event :=
  let c1 := ({ c with lastActivityAt := t }.bufAppend chunk).settle cfg
  drain cfg reg c1.buf.length c1

/-- Walk the segment in the decoder's registers by the rows of the opcode table: fetch the TAG8 item at `off`, run it, until `off`
reaches `end`. The events of the items, in order. -/
def walkTags : Nat → State → Option (State × List Event)
  | fuel, s =>
    if s.work.off = s.work.stop then some (s, [])
    else
      match fuel with
      | 0 => none
      | fuel' + 1 =>
        match decodeTag8 s.reg (slice s.work.body s.work.off.toNat s.work.stop.toNat) with
        | .error _ => none
        | .ok (i, _) =>
          match exec i s with
          | .next s' => (walkTags fuel' s').map fun r => (r.1, s'.ret.events ++ r.2)
          | _ => none

/-- The parameters, the registry, the lists of pending operations and choices and the count of sessions are the same: what the
operations of a session leave alone (R20, R33, R66). -/
def State.SameSetup (s t : State) : Prop :=
  t.cfg = s.cfg ∧ t.reg = s.reg ∧ t.queue = s.queue ∧ t.bench = s.bench ∧ t.sched = s.sched ∧ t.slots = s.slots
    ∧ t.opened = s.opened

/-- The events of a session as the log holds them (R35). -/
def Session.logged (c : Session) (evs : List Event) : List Logged := evs.map fun e => ⟨c.serial, c.cid, e⟩

/-- An event is a Record. -/
def Event.isRecord : Event → Bool
  | .record _ _ => true
  | _ => false

/-- An event is an acknowledgement. -/
def Event.isAck : Event → Bool
  | .ackRequired _ => true
  | _ => false

/-- The body offset an error of the decoder names (R290). -/
def ProtocolError.pos? : ProtocolError → Option Nat
  | .unknownTag _ pos => some pos
  | .truncatedTag _ _ pos _ _ => some pos
  | _ => none

end Sys2Proof.Machine
end

