-- ==== Sys2Proof/Certificates/Slice0/Obligations.lean ====
section
/-! DEFINITION. The statements for the provers, each with the rule of the spec it formalises. After every operation the working
registers are free values (log entry 1): `State.done` says so, and no statement says what they hold. Inside a record's decoding the
decoder's own registers go from tag to tag (R31; log entry 30): `State.afterRound` with `State.inRecord` or `State.inBlock` says which
ones. What an operation returns stands in `ret` (log entry 32). Events are logged with their session's number and cid (log entry 11). -/

open Sys2Proof Sys2Proof.Machine

/-! ## Encodings -/

/-- R80, R81, R83, R85, R86, R87, R91: decoding the bytes of a well-formed item gives it back, and leaves what follows. -/
def Obligations.EncodeThenDecodeGivesItem : Prop :=
  ∀ (cfg : Config) (reg : Registry) (i : Instr) (f : Format) (rest : List Byte),
    i.wellFormed cfg reg = true → formatOf i = some f → decode reg f (encode i ++ rest) = .ok (i, rest)

/-- R50, R80 to R91: the bytes decoded are the item's encoding: no bit of an item is dropped, cut-off items included. -/
def Obligations.DecodeThenEncodeGivesBytes : Prop :=
  ∀ (reg : Registry) (f : Format) (B : List Byte) (i : Instr) (rest : List Byte),
    decode reg f B = .ok (i, rest) → encode i ++ rest = B ∧ formatOf i = some f

/-- A few words written out from R80, R81, R82, R83, R85, R86, R91. -/
def Obligations.WrittenWordsDecode : Prop :=
  decode regMin .frameHdr [0x01, 0x00, 0x80, 0x21, 0xA0] = .ok (.telemetry true [] 0xA021, [])
    ∧ decode regMin .frameHdr [0x07, 0x02, 0x00, 0xAA, 0xBB, 0xAE, 0xAB, 0x99]
        = .ok (.extension 0x07 false [0xAA, 0xBB] 0xABAE, [0x99])
    ∧ decode regMin .tag8 [0xFE, 0x02, 0x00, 0x11, 0x22, 0x33] = .ok (.tagEscape [0x02, 0x00] [0x11, 0x22], [0x33])
    ∧ decode regMin .tag16 [0x01, 0x00, 0x40, 0xE2, 0x01, 0x00] = .ok (.xtagModbus [0x40, 0xE2, 0x01, 0x00], [])
    ∧ decode regMin .ack [0x02, 0xED, 0x4E] = .ok (.ackOk 0x4EED, [])

/-! ## Steps -/

/-- R30, R255, R265: a step runs what it fetches. The host's operation; an internal operation or an item on the bench, decoded, and
refused when it decodes to nothing; for a due session the frame at the front of its buffer, or FRAME_STEP where no whole frame stands
there; a session in Idle ends its FEED; and where nothing is due, nothing changes. The model's choices in it, none of them the
spec's: the waiting step (log entry 6), who moves and `sched` (8), the host's queue (10), the bench and its registers (15), the row fetched by
the header byte (22), the refusal of an undecodable item (26). -/
def Obligations.StepRunsWhatItFetches : Prop :=
  ∀ s : State,
    (∀ o rest, s.pick = some .host → s.queue = o :: rest →
        step s = exec o.instr { s with sched := s.sched.tail, queue := rest })
    ∧ (∀ o rest, s.pick = some .bench → s.bench = .op o :: rest →
        step s = exec o.instr { s with sched := s.sched.tail, bench := rest })
    ∧ (∀ f bytes rest i left, s.pick = some .bench → s.bench = .item f bytes :: rest →
        decode s.reg f bytes = .ok (i, left) →
        step s = exec i ({ s with sched := s.sched.tail, bench := rest }.loadSpan f bytes))
    ∧ (∀ f bytes rest e, s.pick = some .bench → s.bench = .item f bytes :: rest →
        decode s.reg f bytes = .error e → step s = .refused (.undecodable e))
    ∧ (∀ k c i left, s.pick = some (.session k) → s.ctxs[k]? = some c → c.phase = .hasCompleteFrames →
        decode s.reg .frameHdr c.buf = .ok (i, left) →
        step s = exec i { s with sched := s.sched.tail, cur := k })
    ∧ (∀ k c e, s.pick = some (.session k) → s.ctxs[k]? = some c → c.phase = .hasCompleteFrames →
        decode s.reg .frameHdr c.buf = .error e →
        step s = exec (.frameStep c.cid) { s with sched := s.sched.tail, cur := k })
    ∧ (∀ k c, s.pick = some (.session k) → s.ctxs[k]? = some c → c.phase = .idle →
        step s = .next ({ s with sched := s.sched.tail }.endFeed k c))
    ∧ (s.pick = none → step s = .next s)

/-- R63, R314, R316: only an agent with something to do moves, and the block waits only when none has. The order among agents is the
model's oracle (log entry 8); the host's queue and the bench are the model's (log entries 10 and 15). -/
def Obligations.SomebodyMovesWheneverSomethingIsDue : Prop :=
  ∀ s : State,
    (s.pick = none ↔ s.queue = [] ∧ s.bench = [] ∧ ∀ c ∈ s.ctxs, c.phase ≠ .hasCompleteFrames ∧ c.phase ≠ .idle)
    ∧ (s.pick = some .host → s.queue ≠ [])
    ∧ (s.pick = some .bench → s.bench ≠ [])
    ∧ (∀ k, s.pick = some (.session k) →
        ∃ c, s.ctxs[k]? = some c ∧ (c.phase = .hasCompleteFrames ∨ c.phase = .idle))

/-- R38, R8, R9: the invariant holds after reset. The registry REG_MIN, the values of cid and the timestamps are the model's choice
(log entries 3 and 4). -/
def Obligations.ResetMeetsInvariant : Prop := State.reset.Inv

/-- R8, R9, R20, R21, R23, R24, R25, R60, R62, R260: every step keeps the invariant, in every state that meets it. That
a session's number is one OPEN has given out is the model's own clause (R35; log entry 11). -/
def Obligations.StepKeepsInvariant : Prop :=
  ∀ s t : State, s.Inv → step s = .next t → t.Inv

/-- R33, R66: while any session is open no step changes the registry, and no step ever changes a parameter (R8, R20). -/
def Obligations.OpenSessionsFreezeRegistry : Prop :=
  ∀ s t : State, step s = .next t →
    t.cfg = s.cfg ∧ (s.ctxs.any Session.isOpen = true → t.reg = s.reg)

/-- R33, R311: no operation but REGISTER_TAG changes the registry; no wire item can. -/
def Obligations.OnlyRegisterTagWritesRegistry : Prop :=
  ∀ (i : Instr) (s t : State), exec i s = .next t → t.reg ≠ s.reg →
    ∃ id kind label, i = .registerTag id kind label ∧ t.reg = s.reg.register id kind label

/-- R15, R35, R64: a step only appends to the event log, and appends events of one session, under one cid. The one log, its events
marked by the session's number, is the model's form of R35's lists (log entry 11). -/
def Obligations.StepAppendsEventsOfOneConnection : Prop :=
  ∀ s t : State, step s = .next t →
    ∃ (serial cid : Nat) (evs : List Event), t.log = s.log ++ evs.map fun e => ⟨serial, cid, e⟩

/-- R63, R65, R35: a session's own step changes no other context, its events are its own, and every other session's event list stays as
it was. -/
def Obligations.SessionTurnTouchesOnlyItsContext : Prop :=
  ∀ (s t : State) (k : Nat) (c : Session), s.Inv → s.pick = some (.session k) → s.ctxs[k]? = some c →
    step s = .next t →
      (∀ j, j ≠ k → t.ctxs[j]? = s.ctxs[j]?)
      ∧ t.ctxs.length = s.ctxs.length
      ∧ (∃ evs, t.log = s.log ++ c.logged evs)
      ∧ (∀ n, n ≠ c.serial → t.eventsOf n = s.eventsOf n)
      ∧ t.cfg = s.cfg ∧ t.reg = s.reg ∧ t.queue = s.queue ∧ t.bench = s.bench ∧ t.slots = s.slots
      ∧ t.opened = s.opened

/-- R63: what a frame step does to its session, and the events it emits, depend on that session, the parameters and the registry
only: two blocks that agree on these agree on them, whatever the other sessions hold. -/
def Obligations.FrameStepDependsOnItsSessionOnly : Prop :=
  ∀ (s₁ s₂ t₁ t₂ : State) (k : Nat) (c : Session), s₁.Inv → s₂.Inv →
    s₁.pick = some (.session k) → s₂.pick = some (.session k) →
    s₁.cfg = s₂.cfg → s₁.reg = s₂.reg → s₁.ctxs[k]? = some c → s₂.ctxs[k]? = some c →
    c.phase = .hasCompleteFrames → step s₁ = .next t₁ → step s₂ = .next t₂ →
      t₁.ctxs[k]? = t₂.ctxs[k]? ∧ t₁.log.drop s₁.log.length = t₂.log.drop s₂.log.length

/-! ## ChecksumEngine -/

/-- R120, R122, R123, R124: CRC_COMPUTE and CRC_VALIDATE complete in every state with the checksum and with the one bit, and emit
nothing; the checksum depends on the span alone; the empty span's checksum, one byte's (R131) and the check value. -/
def Obligations.ChecksumOperationsComplete : Prop :=
  (∀ (m : List Byte) (s : State), exec (.crcCompute m) s = .next (s.done (.checksum (crc16 m)) []))
    ∧ (∀ (m : List Byte) (rx : Half) (s : State),
        exec (.crcValidate m rx) s = .next (s.done (.valid (decide (crc16 m = rx))) []))
    ∧ crc16 [] = 0xFFFF ∧ crc16 [0x01] = 0x807E
    ∧ crc16 [0x31, 0x32, 0x33, 0x34, 0x35, 0x36, 0x37, 0x38, 0x39] = 0x4B37

/-- R126: the residue. The span followed by two checksum bytes leaves 0 exactly when they are its checksum's. -/
def Obligations.ChecksumResidueIsZero : Prop :=
  ∀ (M : List Byte) (k : Half), crc16 (M ++ [lo8 k, hi8 k]) = 0 ↔ k = crc16 M

/-- R349: flipping the archive-pending flag of a valid frame, or changing its header byte, gives a checksum mismatch. -/
def Obligations.FlippedFlagBreaksChecksum : Prop :=
  ∀ (max : Nat) (B : List Byte) (f : Frame) (T : Nat), tryExtract max B = .complete f T →
    (∃ computed, tryExtract max (B.set 2 (byteAt B 2 ^^^ 0x80)) = .badChecksum f.checksum computed T
      ∧ computed ≠ f.checksum)
    ∧ ∀ hdr : Byte, hdr ≠ f.hdr →
      ∃ computed, tryExtract max (B.set 0 hdr) = .badChecksum f.checksum computed T ∧ computed ≠ f.checksum

/-! ## FrameFramer and PacketClassifier -/

/-- R141 to R146: every result of TRY_EXTRACT, by the length field read as a number; and TRY_EXTRACT completes in every state
with that result, emits nothing and changes no buffer. -/
def Obligations.TryExtractResults : Prop :=
  ∀ (B : List Byte) (s : State),
    let raw := u16le B 1
    let L := raw % 32768
    let max := s.cfg.maxBodyLen
    exec (.tryExtract B) s = .next (s.done (.extract (tryExtract max B)) [])
    ∧ (B.length < 3 → tryExtract max B = .incomplete)
    ∧ (3 ≤ B.length → max < L → tryExtract max B = .badLength L 1)
    ∧ (3 ≤ B.length → L ≤ max → B.length < L + 5 → tryExtract max B = .incomplete)
    ∧ (L ≤ max → L + 5 ≤ B.length → crc16 (B.take (L + 3)) ≠ halfAt B (L + 3) →
        tryExtract max B = .badChecksum (halfAt B (L + 3)) (crc16 (B.take (L + 3))) (L + 5))
    ∧ (L ≤ max → L + 5 ≤ B.length → crc16 (B.take (L + 3)) = halfAt B (L + 3) →
        tryExtract max B = .complete
          { hdr := byteAt B 0, len := L, ap := decide (32768 ≤ raw), body := (B.drop 3).take L,
            checksum := halfAt B (L + 3) } (L + 5))

/-- R27, R28, R140: inside TRY_EXTRACT, which answers what its registers and flags then say: it writes none below three bytes; else the
header, the length field, `L`, `ap` and `len_ok`; for an acceptable length `T`; for a whole frame `rx`, `calc` and `crc_ok`. None outlives
the operation (log entry 1). -/
def Obligations.TryExtractWritesRegistersAndFlags : Prop :=
  ∀ (B : List Byte) (s : State),
    let raw := u16le B 1
    let L := raw % 32768
    let max := s.cfg.maxBodyLen
    let M := B.take (L + 3)
    let rx := halfAt B (L + 3)
    let w := s.work.extractRegs max B
    exec (.tryExtract B) s = .next (s.done (.extract (w.extractResult B)) [])
    ∧ (B.length < 3 → w = s.work)
    ∧ (3 ≤ B.length → w.hdr = byteAt B 0 ∧ w.raw.toNat = raw ∧ w.len.toNat = L
        ∧ w.ap = decide (32768 ≤ raw) ∧ w.lenOk = decide (L ≤ max))
    ∧ (3 ≤ B.length → L ≤ max → w.total.toNat = L + 5)
    ∧ (3 ≤ B.length → (max < L ∨ B.length < L + 5) →
        w.rx = s.work.rx ∧ w.computed = s.work.computed ∧ w.crcOk = s.work.crcOk)
    ∧ (L ≤ max → L + 5 ≤ B.length →
        w.rx = rx ∧ w.computed = crc16 M ∧ w.crcOk = decide (crc16 M = rx))

/-- R148: the prefix property. -/
def Obligations.ExtractionReadsAPrefixOnly : Prop :=
  ∀ (max : Nat) (B : List Byte),
    let L := u16le B 1 % 32768
    let P := if B.length < 3 ∨ max < L then 3 else L + 5
    (∀ B' : List Byte, B'.take P = B.take P → (P ≤ B.length ∨ B' = B) → tryExtract max B' = tryExtract max B)
    ∧ (tryExtract max B ≠ .incomplete → ∀ X, tryExtract max (B ++ X) = tryExtract max B)
    ∧ (tryExtract max B = .incomplete → ∀ n, tryExtract max (B.take n) = .incomplete)

/-- R95, R140, R144, R145: the bytes of a frame within the limit are extracted as that frame, whatever follows them, if its checksum
field is its checksum; with any other checksum field the result is the mismatch. -/
def Obligations.WrittenFrameIsExtracted : Prop :=
  ∀ (max : Nat) (hdr : Byte) (ap : Bool) (body X : List Byte) (k : Half),
    body.length ≤ max → max ≤ 32767 →
    (k = crc16 (frameHead hdr ap body) →
      tryExtract max (frameBytes hdr ap body k ++ X)
        = .complete { hdr := hdr, len := body.length, ap := ap, body := body, checksum := k } (body.length + 5))
    ∧ (k ≠ crc16 (frameHead hdr ap body) →
      tryExtract max (frameBytes hdr ap body k ++ X)
        = .badChecksum k (crc16 (frameHead hdr ap body)) (body.length + 5))

/-- R160: CLASSIFY completes in every state; its result by the header byte; it raises nothing. That every register and flag is a free
value after the operation is the model's choice (log entry 1). -/
def Obligations.ClassifyByHeaderByte : Prop :=
  ∀ (hdr : Byte) (s : State), ∃ cls, exec (.classify hdr) s = .next (s.done (.frameClass cls) [])
    ∧ (cls = .telemetry ↔ hdr = 0x01) ∧ (cls = .ignorable ↔ hdr = 0x15)
    ∧ (cls = .extension ↔ hdr ≠ 0x01 ∧ hdr ≠ 0x15)

/-! ## Decode kinds -/

/-- R173 to R178, R187, R193: the integer kinds, DateTimeSeconds and ModbusScaled complete in every state; the value is the
little-endian number, signed kinds in two's complement, and no event, session or registry entry changes. -/
def Obligations.IntegerKindsDecode : Prop :=
  ∀ (b0 b1 b2 b3 : Byte) (s : State),
    let result := fun v => Host.Outcome.next (φ := Fault) (ρ := Refusal) (s.done (.value v) [])
    exec (.kindUint8 b0) s = result (.int b0.toNat)
    ∧ exec (.kindInt8 b0) s = result (.int b0.toInt)
    ∧ exec (.kindUint16 b0 b1) s = result (.int (b1 ++ b0).toNat)
    ∧ exec (.kindInt16 b0 b1) s = result (.int (b1 ++ b0).toInt)
    ∧ exec (.kindUint32 b0 b1 b2 b3) s = result (.int (b3 ++ b2 ++ b1 ++ b0).toNat)
    ∧ exec (.kindInt32 b0 b1 b2 b3) s = result (.int (b3 ++ b2 ++ b1 ++ b0).toInt)
    ∧ exec (.kindDateTimeSeconds b0 b1 b2 b3) s = result (.int (b3 ++ b2 ++ b1 ++ b0).toNat)
    ∧ exec (.kindModbusScaled b0 b1 b2 b3) s = result (.scaled ⟨(b3 ++ b2 ++ b1 ++ b0).toNat, 100⟩)

/-- R179, R188, R189, R191, R192: the structured kinds complete in every state, with these values. -/
def Obligations.StructuredKindsDecode : Prop :=
  ∀ (q a0 a1 a2 a3 o0 o1 o2 o3 : Byte) (V : List Byte) (s : State),
    let result := fun v => Host.Outcome.next (φ := Fault) (ρ := Refusal) (s.done (.value v) [])
    let bits := Value.bits (a1 ++ a0).toNat ((List.range 16).map fun i => (a1 ++ a0).getLsbD i)
    exec (.kindFixedString V) s = result (.text V)
    ∧ exec (.kindCoordinates q a0 a1 a2 a3 o0 o1 o2 o3) s = result
        (.coordinates (q.extractLsb' 0 4) (q.extractLsb' 4 4)
          ⟨(a3 ++ a2 ++ a1 ++ a0).toInt, 1000000⟩ ⟨(o3 ++ o2 ++ o1 ++ o0).toInt, 1000000⟩)
    ∧ exec (.kindSpeedDirection a0 a1 a2 a3) s = result
        (.speedDirection ⟨(a1 ++ a0).toNat, 10⟩ ⟨(a3 ++ a2).toNat, 10⟩)
    ∧ exec (.kindStatusBits a0 a1) s = result bits
    ∧ exec (.kindIoBitfield a0 a1) s = result bits

/-! ## RecordDecoder -/

/-- R183, R184: a known main tag but 0x03. Whole: its entry, and `off` past it. Cut off: TruncatedTag, no entry, `off` at the
segment's end. No context, event log, parameter or registry entry changes, nor what the decoding holds besides (log entry 30). For
`t = 0xFE`, which no legal registry defines, the lookup is the model's choice (log entry 24). -/
def Obligations.KnownTagRound : Prop :=
  ∀ (t : Byte) (v : List Byte) (d : TagDef) (s : State), s.reg.mainDef t = some d → t ≠ 0x03 →
    (v.length = d.kind.width → exec (.tagKnown t v) s = .next (s.afterRound { s.inRecord with
        tag := t, off := s.work.off + 1 + BitVec.ofNat 16 d.kind.width
        entries := s.work.entries ++ [⟨.main t, d.kind, v, decodeValue d.kind v⟩] } []))
    ∧ (v.length < d.kind.width → exec (.tagKnown t v) s = .next (s.afterRound { s.inRecord with
        tag := t, off := s.work.stop }
        [.protocolError (.truncatedTag .main (some (.main t)) s.work.off.toNat d.kind.width v.length)]))

/-- R185: an unknown main tag, with as many of its four skipped bytes as the segment holds. For `t = 0xFE`, which R182 and R185 except
and no bytes decode to, UnknownTag is the model's choice (log entry 24). -/
def Obligations.UnknownTagRound : Prop :=
  ∀ (t : Byte) (skipped : List Byte) (s : State), s.reg.mainDef t = none → skipped.length ≤ 4 →
    exec (.tagUnknown t skipped) s = .next (s.afterRound { s.inRecord with
      tag := t, off := s.work.off + 1 + BitVec.ofNat 16 skipped.length }
      [.protocolError (.unknownTag (.main t) s.work.off.toNat)])

/-- R190: the IMEI tag of an open session, in a legal registry. Whole: its entry, and the session's `lastIMEI` is the fifteen
bytes. Cut off: TruncatedTag, and `lastIMEI` stays. Without an open session there is none to update: refused (log entry 28). -/
def Obligations.ImeiTagRound : Prop :=
  ∀ (v : List Byte) (s : State), s.reg.legal = true →
    (∀ c, s.curSession = some c →
      (v.length = 15 → exec (.tagImei v) s = .next ((s.afterRound { s.inRecord with
          tag := 0x03, off := s.work.off + 16
          entries := s.work.entries ++ [⟨.main 0x03, .fixedString 15, v, .text v⟩] } []).setCtx s.cur
          { c with lastIMEI := some v }))
      ∧ (v.length < 15 → exec (.tagImei v) s = .next (s.afterRound { s.inRecord with
          tag := 0x03, off := s.work.stop }
          [.protocolError (.truncatedTag .main (some (.main 0x03)) s.work.off.toNat 15 v.length)])))
    ∧ (s.curSession = none → exec (.tagImei v) s = .refused .noSession)

/-- R223, R183, R184, R185: as a tag, 0x10 is looked up like any other. -/
def Obligations.RecordStartTagRound : Prop :=
  ∀ (v : List Byte) (s : State),
    (∀ d, s.reg.mainDef 0x10 = some d →
      (v.length = d.kind.width → exec (.tagRecstart v) s = .next (s.afterRound { s.inRecord with
          tag := 0x10, off := s.work.off + 1 + BitVec.ofNat 16 d.kind.width
          entries := s.work.entries ++ [⟨.main 0x10, d.kind, v, decodeValue d.kind v⟩] } []))
      ∧ (v.length < d.kind.width → exec (.tagRecstart v) s = .next (s.afterRound { s.inRecord with
          tag := 0x10, off := s.work.stop }
          [.protocolError (.truncatedTag .main (some (.main 0x10)) s.work.off.toNat d.kind.width v.length)])))
    ∧ (s.reg.mainDef 0x10 = none → v.length ≤ 4 →
        exec (.tagRecstart v) s = .next (s.afterRound { s.inRecord with
          tag := 0x10, off := s.work.off + 1 + BitVec.ofNat 16 v.length }
          [.protocolError (.unknownTag (.main 0x10) s.work.off.toNat)]))

/-- R186, R195, R196, R197, R201: TAG_ESCAPE completes in every state. The entries and the events DECODE_EXT gives for the block join the
Record and the events, every entry in the extended key space; `off` goes on behind a whole block, and at the segment's end where the
block or its length field is cut off, with that error first. No session, registry entry or event log changes, nor what the decoding
holds besides (log entry 30). -/
def Obligations.EscapeTagRound : Prop :=
  ∀ (len items : List Byte) (s : State),
    let n := u16le len 0
    let r := decodeExt s.reg (len ++ items) (s.work.off.toNat + 1) s.work.stop.toNat s.work.off.toNat
    let off := BitVec.ofNat 16 r.2
    exec (.tagEscape len items) s = .next (s.afterRound { s.inRecord with
        tag := 0xFE, off := off, entries := s.work.entries ++ r.1.entries } r.1.out)
      ∧ (∀ e ∈ r.1.entries, ∃ x, e.id = .ext x)
      ∧ (len.length = 2 → items.length = n → off = s.work.off + 3 + BitVec.ofNat 16 n)
      ∧ (len.length = 2 → items.length < n → off = s.work.stop ∧ r.1.out.head? = some
          (.protocolError (.truncatedTag .extBlock (some (.main 0xFE)) s.work.off.toNat n items.length)))
      ∧ (len.length < 2 → items = [] → off = s.work.stop ∧ r.1.entries = [] ∧ r.1.out =
          [.protocolError (.truncatedTag .extLength (some (.main 0xFE)) s.work.off.toNat 2 len.length)])

/-- R193, R195, R196, R199, R200, R306: an extended item: XTAG_KNOWN and XTAG_MODBUS, whole or cut off, and XTAG_UNKNOWN (and
XTAG_MODBUS where the registry has no entry for 0x0001). A cut-off item leaves the loop; that this one row then puts `p` and `off` at
`blkEnd` is the model's reading (log entry 21). No session changes, nor what the decoding holds besides (log entry 30). -/
def Obligations.ExtendedTagRounds : Prop :=
  ∀ (x : Half) (v : List Byte) (s : State),
    (∀ d, s.reg.extDef x = some d →
      (v.length = d.kind.width →
        let t := s.afterRound { s.inBlock with
          x := x, p := s.work.p + 2 + BitVec.ofNat 16 d.kind.width
          entries := s.work.entries ++ [⟨.ext x, d.kind, v, decodeValue d.kind v⟩] } []
        exec (.xtagKnown x v) s = .next t ∧ (x = 1 → exec (.xtagModbus v) s = .next t))
      ∧ (v.length < d.kind.width →
        let t := s.afterRound { s.inBlock with
          x := x, p := s.work.blkEnd.setWidth 16, off := s.work.blkEnd.setWidth 16 }
          [.protocolError (.truncatedTag .ext (some (.ext x)) s.work.p.toNat d.kind.width v.length)]
        exec (.xtagKnown x v) s = .next t ∧ (x = 1 → exec (.xtagModbus v) s = .next t)))
    ∧ (s.reg.extDef x = none → v.length ≤ 4 →
        let t := s.afterRound { s.inBlock with
          x := x, p := s.work.p + 2 + BitVec.ofNat 16 v.length }
          [.protocolError (.unknownTag (.ext x) s.work.p.toNat)]
        exec (.xtagUnknown x v) s = .next t ∧ (x = 1 → exec (.xtagModbus v) s = .next t))

/-- R170, R180, R181, R190: DECODE_RECORD of an open session, on a segment inside the body, completes: it writes the session's
`lastIMEI` and returns the Record, `next` at the segment's end, and its events; the other contexts and the log stay. The model's
choices: on an end before the start, an end outside the body, or a body above 32767 bytes it faults (log entry 20); for a cid that is not
open it is refused (log entry 31). -/
def Obligations.DecodeRecordCompletes : Prop :=
  ∀ (cid : Nat) (body : List Byte) (start stop : Nat) (s : State),
    (∀ k c, s.findCtx openPhase cid = some (k, c) →
      let d := decodeRecord s.reg body start stop c.lastIMEI
      (body.length ≤ 32767 → start ≤ stop → stop ≤ body.length →
        exec (.decodeRecord cid body start stop) s = .next
          (({ s with cur := k }.setCtx k { c with lastIMEI := d.imei }).done (.entries d.entries stop) d.out))
      ∧ (stop < start ∨ body.length < stop ∨ 32767 < body.length →
        exec (.decodeRecord cid body start stop) s = .fault .spanOverrun))
    ∧ (s.findCtx openPhase cid = none → exec (.decodeRecord cid body start stop) s = .refused .cidNotOpen)

/-- R195, R186, R196, R197: DECODE_EXT completes on offsets inside the body with the block's entries, its events and the offset the main
parser resumes at, and touches no session. The model's choice: on an end before `off`, an end outside the body, or a body above 32767
bytes it faults (log entry 20). -/
def Obligations.DecodeExtCompletes : Prop :=
  ∀ (body : List Byte) (off stop tagAt : Nat) (s : State),
    let r := decodeExt s.reg (slice body off stop) off stop tagAt
    (body.length ≤ 32767 → off ≤ stop → stop ≤ body.length →
      exec (.decodeExt body off stop tagAt) s = .next (s.done (.entries r.1.entries r.2) r.1.out)
        ∧ r.2 = if stop < off + 2 ∨ stop < off + 2 + u16le body off then stop else off + 2 + u16le body off)
    ∧ (stop < off ∨ body.length < stop ∨ 32767 < body.length →
      exec (.decodeExt body off stop tagAt) s = .fault .spanOverrun)

/-- R181, R306: the walk of a segment ends at its end, and every error names an offset inside it. -/
def Obligations.RecordWalkStaysInsideSegment : Prop :=
  ∀ (reg : Registry) (body : List Byte) (start stop : Nat) (imei : Option (List Byte)),
    start ≤ stop → stop ≤ body.length →
      let d := decodeRecord reg body start stop imei
      d.off = stop
      ∧ ∀ e ∈ d.out, ∃ err pos, e = .protocolError err ∧ err.pos? = some pos ∧ start ≤ pos ∧ pos < stop

/-- R171, R183, R201: every entry of a Record is a definition of the registry in its own key space, with exactly the kind's bytes and
their decoded value. -/
def Obligations.RecordEntriesFollowRegistry : Prop :=
  ∀ (reg : Registry) (body : List Byte) (start stop : Nat) (imei : Option (List Byte)),
    ∀ e ∈ (decodeRecord reg body start stop imei).entries,
      ∃ d, reg.lookup e.id = some d ∧ e.kind = d.kind ∧ e.raw.length = d.kind.width
        ∧ e.value = decodeValue e.kind e.raw

/-- R190: after a record `lastIMEI` is the raw value of its last main-space entry 0x03, or, if it has none, what it was. -/
def Obligations.LastImeiEntryWins : Prop :=
  ∀ (reg : Registry) (body : List Byte) (start stop : Nat) (imei : Option (List Byte)),
    let d := decodeRecord reg body start stop imei
    d.imei = (match (d.entries.filter fun e => e.id == .main 0x03).getLast? with
      | some e => some e.raw
      | none => imei)

/-- R83, R85, R86, R180, R195: a segment written as whole known tags, then one extended block of whole known extended items, decodes to
exactly their entries in order, without an error. -/
def Obligations.WrittenRecordDecodesToItsEntries : Prop :=
  ∀ (reg : Registry) (main : List (Byte × List Byte)) (ext : List (Half × List Byte)) (imei : Option (List Byte)),
    (∀ a ∈ main, a.1 ≠ 0xFE ∧ ∃ d, reg.mainDef a.1 = some d ∧ a.2.length = d.kind.width) →
    (∀ a ∈ ext, ∃ d, reg.extDef a.1 = some d ∧ a.2.length = d.kind.width) →
    let items := ext.flatMap fun a => lo8 a.1 :: hi8 a.1 :: a.2
    let n := BitVec.ofNat 16 items.length
    let body := (main.flatMap fun a => a.1 :: a.2) ++ 0xFE :: lo8 n :: hi8 n :: items
    items.length ≤ 65535 →
    let d := decodeRecord reg body 0 body.length imei
    d.out = []
      ∧ d.entries.map (fun e => (e.id, e.raw))
          = (main.map fun a => (TagId.main a.1, a.2)) ++ ext.map fun a => (TagId.ext a.1, a.2)

/-- R180, R31, R83: DECODE_RECORD is the walk of its segment by the rows of the opcode table: fetching each item at `off` and running
it, from the segment's start, gives the same entries, events, offset and `lastIMEI`. The rows are rounds of one decoding, whose
registers stay from row to row (log entry 30). -/
def Obligations.RecordIsWalkOfTagRows : Prop :=
  ∀ (s : State) (c : Session), s.curSession = some c → s.work.body.length ≤ 32767 →
    s.work.off.toNat ≤ s.work.stop.toNat → s.work.stop.toNat ≤ s.work.body.length → s.work.entries = [] →
    let d := decodeRecord s.reg s.work.body s.work.off.toNat s.work.stop.toNat c.lastIMEI
    ∃ t, walkTags (s.work.stop.toNat - s.work.off.toNat) s = some (t, d.out)
      ∧ t.work.entries = d.entries ∧ t.work.out = s.work.out ++ d.out ∧ t.work.off = s.work.stop ∧ t.curIMEI = d.imei
      ∧ t.log = s.log ∧ s.SameSetup t

/-! ## MultiRecordSplitter -/

/-- R220 to R225: the segments of a body, by the offsets of its bytes 0x10; and SPLIT completes with them in every state, on a body of
at most 32767 bytes and its own length. The model's choice: on any other length, or a longer body, it faults (log entry 20). -/
def Obligations.SegmentsStartAtMarkers : Prop :=
  ∀ (body : List Byte) (s : State),
    let L := body.length
    let starts := (List.range L).filter fun i => body[i]? == some 0x10
    let segs := (split body L).1
    let orphan := (split body L).2
    (L ≤ 32767 → exec (.split body L) s = .next (s.done (.segments segs orphan) []))
    ∧ (∀ n, n ≠ L ∨ 32767 < L → exec (.split body n) s = .fault .spanOverrun)
    ∧ (L < 32 → segs = [(0, L)] ∧ orphan = 0)
    ∧ (32 ≤ L → segs.map Prod.fst = starts ∧ segs.map Prod.snd = starts.drop 1 ++ (if starts = [] then [] else [L])
        ∧ orphan = starts.headD L ∧ segs.length = body.count 0x10)

/-! ## AckEncoder -/

/-- R235, R236: BUILD_ACK completes in every state with the three bytes of either form. -/
def Obligations.BuildAckCompletes : Prop :=
  ∀ (k : Half) (s : State),
    exec (.buildAck (.normal k)) s = .next (s.done (.ack [0x02, lo8 k, hi8 k]) [])
    ∧ exec (.buildAck .reject) s = .next (s.done (.ack [0x02, 0x3F, 0x00]) [])

/-- R235, R236, R64: the two acknowledgements complete for an open current session: three bytes on its TX stream, on no other's, and
nothing else changes. Without an open session they are refused (log entry 28). -/
def Obligations.AcknowledgementsReachTheWire : Prop :=
  ∀ (k : Half) (s : State),
    (∀ c, s.curSession = some c →
      let sent := fun bytes : List Byte => { s with log := s.log ++ c.logged [.ackRequired bytes] }.done (.ack bytes)
        [.ackRequired bytes]
      exec (.ackOk k) s = .next (sent [0x02, lo8 k, hi8 k])
      ∧ exec .ackReject s = .next (sent [0x02, 0x3F, 0x00])
      ∧ ∀ bytes n, (sent bytes).tx n = s.tx n ++ if n = c.serial then bytes else [])
    ∧ (s.curSession = none →
      exec (.ackOk k) s = .refused .noSession ∧ exec .ackReject s = .refused .noSession)

/-- R343: the sentinel is the normal acknowledgement of exactly one checksum, 0x003F. -/
def Obligations.SentinelAliasesOneChecksum : Prop :=
  ∀ k : Half, buildAck k = ackRejectBytes ↔ k = 0x003F

/-! ## Frames -/

/-- R161, R256, R257, R259: TELEMETRY completes on a good frame at the front of its session's buffer, within MAX_BODY_LEN: the frame
leaves the buffer; its `Frame` event, the orphan bytes, the records of its segments, and its acknowledgement, in this order. -/
def Obligations.TelemetryFrameCompletes : Prop :=
  ∀ (ap : Bool) (body X : List Byte) (s : State) (c : Session),
    let k := crc16 (frameHead 0x01 ap body)
    s.ctxs[s.cur]? = some c → c.phase = .hasCompleteFrames → c.buf = frameBytes 0x01 ap body k ++ X →
    body.length ≤ s.cfg.maxBodyLen → s.cfg.maxBodyLen ≤ 32767 →
    let sp := split body body.length
    let r := decodeSegments s.reg body sp.1 c.lastIMEI
    ∃ t, exec (.telemetry ap body k) s = .next t
      ∧ t.ctxs = s.ctxs.set s.cur { c with
          buf := X, lastIMEI := r.1
          phase := if tryExtract s.cfg.maxBodyLen X = .incomplete then .idle else .hasCompleteFrames }
      ∧ t.log = s.log ++ c.logged (Event.frame .telemetry 0x01 ap body
            :: (if sp.2 = 0 then [] else [Event.protocolError (.orphanBytes sp.2)]) ++ r.2
            ++ [Event.ackRequired [0x02, lo8 k, hi8 k]])
      ∧ t.cur = s.cur ∧ s.SameSetup t

/-- R162, R163, R259: KEEPALIVE and EXTENSION complete on a good frame: `Frame` and the acknowledgement, no record, no IMEI; the body
is not examined. -/
def Obligations.OtherFramesComplete : Prop :=
  ∀ (hdr : Byte) (ap : Bool) (body X : List Byte) (s : State) (c : Session),
    let k := crc16 (frameHead hdr ap body)
    hdr ≠ 0x01 → s.ctxs[s.cur]? = some c → c.phase = .hasCompleteFrames →
    c.buf = frameBytes hdr ap body k ++ X → body.length ≤ s.cfg.maxBodyLen → s.cfg.maxBodyLen ≤ 32767 →
    let cls := if hdr = 0x15 then FrameClass.ignorable else .extension
    ∃ t, exec (if hdr = 0x15 then .keepalive ap body k else .extension hdr ap body k) s = .next t
      ∧ t.ctxs = s.ctxs.set s.cur { c with
          buf := X
          phase := if tryExtract s.cfg.maxBodyLen X = .incomplete then .idle else .hasCompleteFrames }
      ∧ t.log = s.log ++ c.logged [.frame cls hdr ap body, .ackRequired [0x02, lo8 k, hi8 k]]
      ∧ t.cur = s.cur ∧ s.SameSetup t

/-- R144, R236, R292: a frame of any class whose checksum field is wrong: its `L + 5` bytes leave the buffer, the error and the sentinel
acknowledgement are emitted, and nothing of its content reaches anyone; the session stays open. -/
def Obligations.WrongChecksumIsRejected : Prop :=
  ∀ (hdr : Byte) (ap : Bool) (body X : List Byte) (k : Half) (s : State) (c : Session),
    let good := crc16 (frameHead hdr ap body)
    k ≠ good → s.ctxs[s.cur]? = some c → c.phase = .hasCompleteFrames → c.buf = frameBytes hdr ap body k ++ X →
    body.length ≤ s.cfg.maxBodyLen → s.cfg.maxBodyLen ≤ 32767 →
    ∃ t, exec (if hdr = 0x01 then .telemetry ap body k else if hdr = 0x15 then .keepalive ap body k
        else .extension hdr ap body k) s = .next t
      ∧ t.ctxs = s.ctxs.set s.cur { c with
          buf := X
          phase := if tryExtract s.cfg.maxBodyLen X = .incomplete then .idle else .hasCompleteFrames }
      ∧ t.log = s.log ++ c.logged [.protocolError (.checksumMismatch k good (body.length + 5)),
          .ackRequired [0x02, 0x3F, 0x00]]
      ∧ t.cur = s.cur ∧ s.SameSetup t

/-- R141, R237, R294: FRAME_STEP on a session whose buffer declares a length out of limits: one byte leaves the buffer, the error is
emitted, no acknowledgement; the session stays open. -/
def Obligations.LengthOutOfLimitsDropsOneByte : Prop :=
  ∀ (cid k : Nat) (b0 b1 b2 : Byte) (X : List Byte) (s : State) (c : Session),
    s.findCtx duePhase cid = some (k, c) → c.buf = b0 :: b1 :: b2 :: X →
    let L := (b2 ++ b1).toNat % 32768
    s.cfg.maxBodyLen < L →
    ∃ t, exec (.frameStep cid) s = .next t
      ∧ t.ctxs = s.ctxs.set k { c with
          buf := b1 :: b2 :: X
          phase := if tryExtract s.cfg.maxBodyLen (b1 :: b2 :: X) = .incomplete then .idle else .hasCompleteFrames }
      ∧ t.log = s.log ++ c.logged [.protocolError (.malformedLength L b0)]
      ∧ s.SameSetup t

/-- R141, R23, R59: the other ways of a frame-class row. Its frame whole at the front but its length out of limits: one byte leaves the
buffer, the error is emitted, no acknowledgement. Its frame not at the front, or no frame step due: refused (log entry 29). -/
def Obligations.FrameRowsOnlyRunFromTheFront : Prop :=
  ∀ (hdr : Byte) (ap : Bool) (body : List Byte) (k : Half) (s : State),
    let row : Instr := if hdr = 0x01 then .telemetry ap body k else if hdr = 0x15 then .keepalive ap body k
      else .extension hdr ap body k
    (∀ (c : Session) (X : List Byte), s.ctxs[s.cur]? = some c → c.phase = .hasCompleteFrames →
      c.buf = frameBytes hdr ap body k ++ X → s.cfg.maxBodyLen < body.length → body.length ≤ 32767 →
      let left := (frameBytes hdr ap body k ++ X).drop 1
      ∃ t, exec row s = .next t
        ∧ t.ctxs = s.ctxs.set s.cur { c with
            buf := left
            phase := if tryExtract s.cfg.maxBodyLen left = .incomplete then .idle else .hasCompleteFrames }
        ∧ t.log = s.log ++ c.logged [.protocolError (.malformedLength body.length hdr)]
        ∧ t.cur = s.cur ∧ s.SameSetup t)
    ∧ (∀ c : Session, s.ctxs[s.cur]? = some c → c.phase = .hasCompleteFrames → ¬ frameBytes hdr ap body k <+: c.buf →
      exec row s = .refused .frameNotAtFront)
    ∧ ((∀ c, s.ctxs[s.cur]? = some c → c.phase ≠ .hasCompleteFrames) → exec row s = .refused .noFrameStepDue)

/-- R256: FRAME_STEP completes for every due session on whose buffer TRY_EXTRACT does not answer Incomplete: that session's context and
the log change as the frame step says, and it returns those events. The model's choice: when TRY_EXTRACT answers Incomplete, for which
R256 defines no FRAME_STEP, or no session of that cid is due, it is refused (log entry 29). -/
def Obligations.FrameStepCompletes : Prop :=
  ∀ (cid : Nat) (s : State),
    (∀ k c, s.findCtx duePhase cid = some (k, c) →
      (tryExtract s.cfg.maxBodyLen c.buf ≠ .incomplete →
        ∃ t c' evs, exec (.frameStep cid) s = .next t ∧ c.frameStep s.cfg s.reg = some (c', evs)
          ∧ t.ctxs = s.ctxs.set k c' ∧ t.log = s.log ++ c.logged evs ∧ c.cid = cid
          ∧ t.ret = ⟨.nothing, evs⟩ ∧ s.SameSetup t)
      ∧ (tryExtract s.cfg.maxBodyLen c.buf = .incomplete →
        exec (.frameStep cid) s = .refused .noCompleteFrame))
    ∧ (s.findCtx duePhase cid = none → exec (.frameStep cid) s = .refused .noFrameStepDue)

/-- R147, R57: the bytes a frame step removes, at least one and never more than the buffer holds, by result; and what else of the
session it can change: its phase and, for a Complete frame, its `lastIMEI`. -/
def Obligations.FrameStepConsumes : Prop :=
  ∀ (cfg : Config) (reg : Registry) (c c' : Session) (evs : List Event),
    c.frameStep cfg reg = some (c', evs) →
    ∃ n, 1 ≤ n ∧ n ≤ c.buf.length ∧ c'.buf = c.buf.drop n
      ∧ (match tryExtract cfg.maxBodyLen c.buf with
        | .incomplete => False
        | .badLength _ _ => n = 1 ∧ c'.lastIMEI = c.lastIMEI
        | .badChecksum _ _ _ => n = u16le c.buf 1 % 32768 + 5 ∧ c'.lastIMEI = c.lastIMEI
        | .complete _ _ => n = u16le c.buf 1 % 32768 + 5)
      ∧ c' = { c with buf := c'.buf, phase := c'.phase, lastIMEI := c'.lastIMEI }
      ∧ c'.phase = if tryExtract cfg.maxBodyLen c'.buf = .incomplete then .idle else .hasCompleteFrames

/-- R237, R238, R259: exactly one acknowledgement per Complete or checksum-failed frame, its last event; none for a length failure. -/
def Obligations.OneAcknowledgementLast : Prop :=
  ∀ (cfg : Config) (reg : Registry) (c c' : Session) (evs : List Event),
    c.frameStep cfg reg = some (c', evs) →
    (match tryExtract cfg.maxBodyLen c.buf with
      | .complete f _ => evs.filter Event.isAck = [.ackRequired [0x02, lo8 f.checksum, hi8 f.checksum]]
          ∧ evs.getLast? = some (.ackRequired [0x02, lo8 f.checksum, hi8 f.checksum])
      | .badChecksum _ _ _ => evs.filter Event.isAck = [.ackRequired [0x02, 0x3F, 0x00]]
          ∧ evs.getLast? = some (.ackRequired [0x02, 0x3F, 0x00])
      | _ => evs.filter Event.isAck = [])

/-- R226, R257: a Telemetry frame yields exactly as many Records as its body has segments. -/
def Obligations.OneRecordPerSegment : Prop :=
  ∀ (reg : Registry) (f : Frame) (imei : Option (List Byte)),
    ((completeFrame reg f imei).2.filter Event.isRecord).length
      = if f.hdr = 0x01 then (split f.body f.len).1.length else 0

/-- R229, R257, R258: the segments in order: the last one is decoded with the `lastIMEI` the earlier ones leave, and its Record,
labelled with `lastIMEI` after it, stands after its errors. -/
def Obligations.SegmentsAreDecodedInOrder : Prop :=
  ∀ (reg : Registry) (body : List Byte) (segs : List (Nat × Nat)) (a b : Nat) (imei : Option (List Byte)),
    let r := decodeSegments reg body segs imei
    let d := decodeRecord reg body a b r.1
    decodeSegments reg body (segs ++ [(a, b)]) imei = (d.imei, r.2 ++ d.out ++ [.record d.imei d.entries])

/-! ## Sessions -/

/-- R250, R251, R38, R35: OPEN completes when no open context has the cid, some context is Closed, and the operands have their widths:
one Closed context is the new session, every other context and the log stay, and where OPEN has given out every number in the log, the
new session's event list and TX stream are empty (its number: log entry 11). Otherwise it is refused; for a cid or timestamp too wide
that is the model's choice (log entry 19). -/
def Obligations.OpenCompletes : Prop :=
  ∀ (cid t : Nat) (s : State),
    (cid < 2 ^ s.cfg.cidW → t < 2 ^ s.cfg.tsW →
      ((∀ c ∈ s.ctxs, c.phase ≠ .closed → c.cid ≠ cid) → (∃ c ∈ s.ctxs, c.phase = .closed) →
        ∃ u k c, exec (.openSession cid t) s = .next u
          ∧ s.ctxs[k]? = some c ∧ c.phase = .closed
          ∧ u.ctxs = s.ctxs.set k
              { phase := .awaitingData, cid := cid, buf := [], lastIMEI := none, createdAt := t, lastActivityAt := t,
                serial := s.opened + 1 }
          ∧ u.log = s.log ∧ u.cfg = s.cfg ∧ u.reg = s.reg ∧ u.cur = s.cur ∧ u.queue = s.queue ∧ u.bench = s.bench
          ∧ u.sched = s.sched ∧ u.opened = s.opened + 1
          ∧ ((∀ e ∈ s.log, e.serial ≤ s.opened) → u.eventsOf (s.opened + 1) = [] ∧ u.tx (s.opened + 1) = []))
      ∧ ((∃ c ∈ s.ctxs, c.phase ≠ .closed ∧ c.cid = cid) →
          exec (.openSession cid t) s = .refused .cidAlreadyOpen)
      ∧ ((∀ c ∈ s.ctxs, c.phase ≠ .closed ∧ c.cid ≠ cid) → exec (.openSession cid t) s = .refused .noFreeContext))
    ∧ (2 ^ s.cfg.cidW ≤ cid ∨ 2 ^ s.cfg.tsW ≤ t → exec (.openSession cid t) s = .refused .operandTooWide)

/-- R252, R253, R260: FEED completes for a session in AwaitingData: the timestamp, the append, the phase; an empty chunk does nothing
at all. For a cid with no context in AwaitingData it is refused, and so it is for a timestamp too wide, which is the model's choice
(log entry 19). -/
def Obligations.FeedCompletes : Prop :=
  ∀ (cid t : Nat) (chunk : List Byte) (s : State),
    (t < 2 ^ s.cfg.tsW →
      (∀ k c, s.findCtx waitingPhase cid = some (k, c) →
        (chunk = [] → exec (.feed cid chunk t) s = .next { s with ret := ⟨.nothing, []⟩ })
        ∧ (chunk ≠ [] → ∃ u, exec (.feed cid chunk t) s = .next u
          ∧ u.ctxs = s.ctxs.set k { c with
              buf := c.buf ++ chunk, lastActivityAt := t,
              phase := if tryExtract s.cfg.maxBodyLen (c.buf ++ chunk) = .incomplete then .idle else .hasCompleteFrames }
          ∧ u.log = s.log ∧ u.cur = s.cur ∧ s.SameSetup u))
      ∧ ((∀ c ∈ s.ctxs, c.phase = .awaitingData → c.cid ≠ cid) →
          exec (.feed cid chunk t) s = .refused .notAwaitingData))
    ∧ (2 ^ s.cfg.tsW ≤ t → exec (.feed cid chunk t) s = .refused .operandTooWide)

/-- R262, R265, R332: CLOSE completes for an open session in any phase: buffer and `lastIMEI` are gone, the context is Closed, one
event; every other context stays. For a cid that is not open it is refused. -/
def Obligations.CloseCompletes : Prop :=
  ∀ (cid : Nat) (reason : HostReason) (s : State),
    (∀ k c, s.findCtx openPhase cid = some (k, c) →
      ∃ u c', exec (.closeSession cid reason) s = .next u
        ∧ u.ctxs = s.ctxs.set k c' ∧ c'.phase = .closed ∧ c'.buf = [] ∧ c'.lastIMEI = none
        ∧ u.log = s.log ++ c.logged [.connectionClosed (match reason with
            | .close => .close
            | .error => .error
            | .timeout => .timeout)]
        ∧ u.cur = s.cur ∧ s.SameSetup u)
    ∧ ((∀ c ∈ s.ctxs, c.phase ≠ .closed → c.cid ≠ cid) →
        exec (.closeSession cid reason) s = .refused .cidNotOpen)

/-- R62, R252, R263: the end of a FEED, a session's step in Idle. Not stalled: AwaitingData, nothing else. Stalled: closed as by CLOSE, and
`ConnectionClosed(StallLimit)`. -/
def Obligations.EndOfFeedTestsTheStallLimit : Prop :=
  ∀ (s : State) (k : Nat) (c : Session), s.pick = some (.session k) → s.ctxs[k]? = some c → c.phase = .idle →
    ((∀ m, s.cfg.stallLimit = some m → c.buf.length ≤ m) →
      step s = .next { s with sched := s.sched.tail, ctxs := s.ctxs.set k { c with phase := .awaitingData } })
    ∧ (∀ m, s.cfg.stallLimit = some m → m < c.buf.length →
      ∃ u c', step s = .next u
        ∧ u.ctxs = s.ctxs.set k c' ∧ c'.phase = .closed ∧ c'.buf = [] ∧ c'.lastIMEI = none
        ∧ u.log = s.log ++ c.logged [.connectionClosed .stallLimit]
        ∧ u.cfg = s.cfg ∧ u.reg = s.reg ∧ u.queue = s.queue ∧ u.bench = s.bench ∧ u.opened = s.opened)

/-- R264, R9: REGISTER_TAG completes when every context is Closed and the resulting registry is legal: that id has the new definition,
every other id of either space the old one, nothing else changes. Otherwise it is refused. -/
def Obligations.RegisterTagCompletes : Prop :=
  ∀ (id : TagId) (kind : Kind) (label : Label) (s : State),
    let reg := s.reg.register id kind label
    ((∀ c ∈ s.ctxs, c.phase = .closed) → reg.legal = true →
      ∃ u, exec (.registerTag id kind label) s = .next u
        ∧ (∃ d, u.reg.lookup id = some d ∧ d.kind = kind ∧ d.label = label)
        ∧ (∀ other, other ≠ id → u.reg.lookup other = s.reg.lookup other)
        ∧ u.ctxs = s.ctxs ∧ u.log = s.log ∧ u.cfg = s.cfg ∧ u.cur = s.cur ∧ u.queue = s.queue
        ∧ u.bench = s.bench ∧ u.sched = s.sched ∧ u.slots = s.slots ∧ u.opened = s.opened)
    ∧ ((∃ c ∈ s.ctxs, c.phase ≠ .closed) → exec (.registerTag id kind label) s = .refused .sessionOpen)
    ∧ ((∀ c ∈ s.ctxs, c.phase = .closed) → reg.legal = false →
        exec (.registerTag id kind label) s = .refused .illegalRegistry)

/-- R264, R9 (a), (b): no REGISTER_TAG completes that gives 0x03 another kind than FixedString(15) or another label than IMEI, or that
gives the escape an entry. -/
def Obligations.ImeiOnlyAsItselfAndEscapeNeverRegistrable : Prop :=
  ∀ (kind : Kind) (label : Label) (s t : State),
    exec (.registerTag (.main 0xFE) kind label) s ≠ .next t
    ∧ (kind ≠ .fixedString 15 ∨ label ≠ imeiLabel → exec (.registerTag (.main 0x03) kind label) s ≠ .next t)

/-- R330, R333, R38: RESET completes in every state: every context Closed and empty without an IMEI, no event, the registry and the
parameters as they were. -/
def Obligations.ResetCompletes : Prop :=
  ∀ s : State, ∃ t, exec .resetBlock s = .next t
    ∧ t.ctxs.length = s.ctxs.length
    ∧ (∀ c ∈ t.ctxs, c.phase = .closed ∧ c.buf = [] ∧ c.lastIMEI = none)
    ∧ t.log = s.log ∧ t.cur = s.cur ∧ s.SameSetup t

/-- R255, R60, R353: the extraction loop ends, after at most as many frame steps as the buffer has bytes, with the buffer waiting for
more; then it holds fewer than `MAX_BODY_LEN + 5` bytes, so it fits BUF_CAP. -/
def Obligations.ExtractionLoopEndsInBounds : Prop :=
  ∀ (cfg : Config) (reg : Registry) (c : Session),
    let r := drain cfg reg c.buf.length c
    tryExtract cfg.maxBodyLen r.1.buf = .incomplete
    ∧ r.1.buf.length < cfg.maxBodyLen + 5
    ∧ (cfg.legal = true → r.1.buf.length < cfg.bufCap)
    ∧ r.1.buf <:+ c.buf

/-- R61, with STALL_LIMIT left out of account: feeding two chunks one after the other gives the same events in the same order, and the
same session, as feeding them together. -/
def Obligations.FragmentationChangesNothing : Prop :=
  ∀ (cfg : Config) (reg : Registry) (c : Session) (chunk₁ chunk₂ : List Byte) (t₁ t₂ : Nat),
    let first := feedDrained cfg reg c chunk₁ t₁
    let second := feedDrained cfg reg first.1 chunk₂ t₂
    feedDrained cfg reg c (chunk₁ ++ chunk₂) t₂ = (second.1, first.2 ++ second.2)

/-- R252, R255, R260, R265: run step by step, an undisturbed FEED does what the transaction of R252 says: from its presentation, within
as many steps as there are bytes and two more, the operation is done, the session holds what the extraction loop leaves and waits
again (or is closed by the stall test), and the log has gained exactly the loop's events. It rests on the model's choices: the empty
oracle (log entry 8), the host's queue (10), and FEED run as steps (12). -/
def Obligations.StepsOfAFeedMakeTheTransaction : Prop :=
  ∀ (s : State) (cid t k : Nat) (chunk : List Byte) (c : Session) (rest : List HostOp),
    s.sched = [] → s.queue = .feed cid chunk t :: rest →
    (∀ d ∈ s.ctxs, d.phase ≠ .hasCompleteFrames ∧ d.phase ≠ .idle) →
    s.findCtx waitingPhase cid = some (k, c) → chunk ≠ [] → t < 2 ^ s.cfg.tsW →
    let r := feedDrained s.cfg s.reg c chunk t
    ∃ n u, n ≤ c.buf.length + chunk.length + 2 ∧ Sys2Proof.core.run n s = .next u
      ∧ u.queue = rest ∧ u.bench = s.bench ∧ u.cfg = s.cfg ∧ u.reg = s.reg
      ∧ (stalled s.cfg r.1.buf = false →
          u.ctxs = s.ctxs.set k { r.1 with phase := .awaitingData }
          ∧ u.log = s.log ++ c.logged r.2)
      ∧ (stalled s.cfg r.1.buf = true →
          (∃ c', u.ctxs = s.ctxs.set k c' ∧ c'.phase = .closed ∧ c'.buf = [] ∧ c'.lastIMEI = none)
          ∧ u.log = s.log ++ c.logged (r.2 ++ [Event.connectionClosed .stallLimit]))

/-! ## Parties -/

/-- R311, R190: the powers of the parties. With nothing on the bench (which no step fills; log entry 15), an open session changes in its
own turn, by a FEED of its cid, or by a CLOSE of its cid or a RESET, and by nothing else; a FEED leaves its `lastIMEI` alone;
`lastIMEI` changes only by a Complete Telemetry frame of the session, or is gone with the close; and of the events only a
`ConnectionClosed` is the host's doing. -/
def Obligations.OnlyItsTurnFeedAndCloseChangeASession : Prop :=
  ∀ s t : State, s.Inv → s.bench = [] → step s = .next t →
    t.bench = []
    ∧ (∀ j c, s.ctxs[j]? = some c → c.phase ≠ .closed → s.pick ≠ some (.session j) →
        ∃ c', t.ctxs[j]? = some c' ∧ (c' = c
          ∨ (s.pick = some .host ∧ c'.phase ≠ .closed ∧ ∃ chunk tm, s.queue.head? = some (.feed c.cid chunk tm)
            ∧ c' = { c with buf := c.buf ++ chunk, lastActivityAt := tm, phase := c'.phase })
          ∨ (s.pick = some .host ∧ c'.phase = .closed
            ∧ (s.queue.head? = some .resetBlock ∨ ∃ reason, s.queue.head? = some (.closeSession c.cid reason)))))
    ∧ (∀ j c c', s.ctxs[j]? = some c → c.phase ≠ .closed → t.ctxs[j]? = some c' → c'.phase ≠ .closed →
        c'.lastIMEI ≠ c.lastIMEI →
        s.pick = some (.session j) ∧ ∃ f T, tryExtract s.cfg.maxBodyLen c.buf = .complete f T ∧ f.hdr = 0x01)
    ∧ (s.pick = some .host →
        t.log = s.log ∨ ∃ c reason, c ∈ s.ctxs ∧ t.log = s.log ++ c.logged [.connectionClosed reason])
end

