-- ==== Sys2Proof/Laws/Bytes.lean ====
section
/-! SUPPORT. Small facts about spans, 16-bit values in wire order, and the length field. -/

namespace Sys2Proof
open Machine

theorem slice_length (S : List Byte) (a b : Nat) : (slice S a b).length = min (b - a) (S.length - a) := by
  simp [slice]

theorem u8_lt (S : List Byte) (o : Nat) : u8 S o < 256 := (byteAt S o).isLt

theorem u16le_lt (S : List Byte) (o : Nat) : u16le S o < 65536 := by
  have h0 := u8_lt S o
  have h1 := u8_lt S (o + 1)
  simp only [u16le]; omega

/-- The 16-bit register holds the number read. -/
@[simp] theorem halfAt_toNat (S : List Byte) (o : Nat) : (halfAt S o).toNat = u16le S o := by
  simp [halfAt, Nat.mod_eq_of_lt (u16le_lt S o)]

@[simp] theorem lo8_toNat (v : Half) : (lo8 v).toNat = v.toNat % 256 := by simp [lo8]

@[simp] theorem hi8_toNat (v : Half) : (hi8 v).toNat = v.toNat / 256 := by
  have := v.isLt
  simp only [hi8, BitVec.toNat_setWidth, BitVec.toNat_ushiftRight, Nat.shiftRight_eq_div_pow]
  omega

/-- Two bytes in wire order read back as the value they came from (R50). -/
theorem halfAt_halfBytes (v : Half) (rest : List Byte) : halfAt (halfBytes v ++ rest) 0 = v := by
  apply BitVec.eq_of_toNat_eq
  have := v.isLt
  simp only [halfAt_toNat, u16le, u8, byteAt, halfBytes, List.cons_append, List.getD_cons_zero,
    List.getD_cons_succ, lo8_toNat, hi8_toNat]
  omega

/-- The two bytes of the value read are the bytes read (R50). -/
theorem halfBytes_halfAt (b0 b1 : Byte) (rest : List Byte) : halfBytes (halfAt (b0 :: b1 :: rest) 0) = [b0, b1] := by
  have h0 := b0.isLt
  have h1 := b1.isLt
  simp only [halfBytes, List.cons.injEq, and_true]
  constructor <;> apply BitVec.eq_of_toNat_eq
  · simp only [lo8_toNat, halfAt_toNat, u16le, u8, byteAt, List.getD_cons_zero, List.getD_cons_succ]; omega
  · simp only [hi8_toNat, halfAt_toNat, u16le, u8, byteAt, List.getD_cons_zero, List.getD_cons_succ]; omega

/-- The declared length is the low 15 bits (R81). -/
theorem declaredLength_eq (raw : Half) : declaredLength raw = raw.toNat % 32768 := by
  simp only [declaredLength, BitVec.toNat_and]
  exact Nat.and_two_pow_sub_one_eq_mod raw.toNat 15

/-- The archive-pending flag is bit 15 (R81). -/
theorem archivePending_eq (raw : Half) : archivePending raw = decide (32768 ≤ raw.toNat) := by
  have h := raw.isLt
  rw [archivePending, BitVec.getLsbD, Nat.testBit_eq_decide_div_mod_eq, decide_eq_decide]
  omega

theorem lengthField_toNat (ap : Bool) {body : List Byte} (h : body.length ≤ 32767) :
    (lengthField ap body).toNat = body.length + if ap then 32768 else 0 := by
  simp only [lengthField, BitVec.toNat_ofNat]
  cases ap <;> simp <;> omega

/-- The length field of a body declares its length (R81, R95). -/
theorem declaredLength_lengthField (ap : Bool) {body : List Byte} (h : body.length ≤ 32767) :
    declaredLength (lengthField ap body) = body.length := by
  rw [declaredLength_eq, lengthField_toNat ap h]
  cases ap <;> simp <;> omega

/-- The length field carries the archive-pending flag (R81, R95). -/
theorem archivePending_lengthField (ap : Bool) {body : List Byte} (h : body.length ≤ 32767) :
    archivePending (lengthField ap body) = ap := by
  rw [archivePending_eq, lengthField_toNat ap h]
  cases ap <;> simp <;> omega

end Sys2Proof
end

