-- ==== Sys2Proof/Laws/State.lean ====
section
/-! SUPPORT. One lemma per field per update of the state and of a session, each true by unfolding. -/

namespace Sys2Proof.Machine
open Sys2Proof

@[simp] theorem State.setCtx_cfg (s : State) (k : Nat) (c : Session) : (s.setCtx k c).cfg = s.cfg := rfl
@[simp] theorem State.setCtx_reg (s : State) (k : Nat) (c : Session) : (s.setCtx k c).reg = s.reg := rfl
@[simp] theorem State.setCtx_ctxs (s : State) (k : Nat) (c : Session) : (s.setCtx k c).ctxs = s.ctxs.set k c := rfl
@[simp] theorem State.setCtx_log (s : State) (k : Nat) (c : Session) : (s.setCtx k c).log = s.log := rfl
@[simp] theorem State.setCtx_work (s : State) (k : Nat) (c : Session) : (s.setCtx k c).work = s.work := rfl
@[simp] theorem State.setCtx_ret (s : State) (k : Nat) (c : Session) : (s.setCtx k c).ret = s.ret := rfl
@[simp] theorem State.setCtx_cur (s : State) (k : Nat) (c : Session) : (s.setCtx k c).cur = s.cur := rfl
@[simp] theorem State.setCtx_queue (s : State) (k : Nat) (c : Session) : (s.setCtx k c).queue = s.queue := rfl
@[simp] theorem State.setCtx_bench (s : State) (k : Nat) (c : Session) : (s.setCtx k c).bench = s.bench := rfl
@[simp] theorem State.setCtx_sched (s : State) (k : Nat) (c : Session) : (s.setCtx k c).sched = s.sched := rfl
@[simp] theorem State.setCtx_slots (s : State) (k : Nat) (c : Session) : (s.setCtx k c).slots = s.slots := rfl
@[simp] theorem State.setCtx_opened (s : State) (k : Nat) (c : Session) : (s.setCtx k c).opened = s.opened := rfl
@[simp] theorem State.setCtx_free (s : State) (k : Nat) (c : Session) : (s.setCtx k c).free = s.free := rfl

@[simp] theorem State.emit_cfg (s : State) (c : Session) (evs : List Event) : (s.emit c evs).cfg = s.cfg := rfl
@[simp] theorem State.emit_reg (s : State) (c : Session) (evs : List Event) : (s.emit c evs).reg = s.reg := rfl
@[simp] theorem State.emit_ctxs (s : State) (c : Session) (evs : List Event) : (s.emit c evs).ctxs = s.ctxs := rfl
@[simp] theorem State.emit_log (s : State) (c : Session) (evs : List Event) : (s.emit c evs).log = s.log ++ evs.map fun e => ⟨c.serial, c.cid, e⟩ := rfl
@[simp] theorem State.emit_work (s : State) (c : Session) (evs : List Event) : (s.emit c evs).work = s.work := rfl
@[simp] theorem State.emit_ret (s : State) (c : Session) (evs : List Event) : (s.emit c evs).ret = s.ret := rfl
@[simp] theorem State.emit_cur (s : State) (c : Session) (evs : List Event) : (s.emit c evs).cur = s.cur := rfl
@[simp] theorem State.emit_queue (s : State) (c : Session) (evs : List Event) : (s.emit c evs).queue = s.queue := rfl
@[simp] theorem State.emit_bench (s : State) (c : Session) (evs : List Event) : (s.emit c evs).bench = s.bench := rfl
@[simp] theorem State.emit_sched (s : State) (c : Session) (evs : List Event) : (s.emit c evs).sched = s.sched := rfl
@[simp] theorem State.emit_slots (s : State) (c : Session) (evs : List Event) : (s.emit c evs).slots = s.slots := rfl
@[simp] theorem State.emit_opened (s : State) (c : Session) (evs : List Event) : (s.emit c evs).opened = s.opened := rfl
@[simp] theorem State.emit_free (s : State) (c : Session) (evs : List Event) : (s.emit c evs).free = s.free := rfl

@[simp] theorem State.done_cfg (s : State) (v : Result) (evs : List Event) : (s.done v evs).cfg = s.cfg := rfl
@[simp] theorem State.done_reg (s : State) (v : Result) (evs : List Event) : (s.done v evs).reg = s.reg := rfl
@[simp] theorem State.done_ctxs (s : State) (v : Result) (evs : List Event) : (s.done v evs).ctxs = s.ctxs := rfl
@[simp] theorem State.done_log (s : State) (v : Result) (evs : List Event) : (s.done v evs).log = s.log := rfl
@[simp] theorem State.done_work (s : State) (v : Result) (evs : List Event) : (s.done v evs).work = Config.freeWork s.free := rfl
@[simp] theorem State.done_ret (s : State) (v : Result) (evs : List Event) : (s.done v evs).ret = ⟨v, evs⟩ := rfl
@[simp] theorem State.done_cur (s : State) (v : Result) (evs : List Event) : (s.done v evs).cur = s.cur := rfl
@[simp] theorem State.done_queue (s : State) (v : Result) (evs : List Event) : (s.done v evs).queue = s.queue := rfl
@[simp] theorem State.done_bench (s : State) (v : Result) (evs : List Event) : (s.done v evs).bench = s.bench := rfl
@[simp] theorem State.done_sched (s : State) (v : Result) (evs : List Event) : (s.done v evs).sched = s.sched := rfl
@[simp] theorem State.done_slots (s : State) (v : Result) (evs : List Event) : (s.done v evs).slots = s.slots := rfl
@[simp] theorem State.done_opened (s : State) (v : Result) (evs : List Event) : (s.done v evs).opened = s.opened := rfl
@[simp] theorem State.done_free (s : State) (v : Result) (evs : List Event) : (s.done v evs).free = s.free + 1 := rfl

@[simp] theorem State.setValue_cfg (s : State) (v : Value) : (s.setValue v).cfg = s.cfg := rfl
@[simp] theorem State.setValue_reg (s : State) (v : Value) : (s.setValue v).reg = s.reg := rfl
@[simp] theorem State.setValue_ctxs (s : State) (v : Value) : (s.setValue v).ctxs = s.ctxs := rfl
@[simp] theorem State.setValue_log (s : State) (v : Value) : (s.setValue v).log = s.log := rfl
@[simp] theorem State.setValue_work (s : State) (v : Value) : (s.setValue v).work = Config.freeWork s.free := rfl
@[simp] theorem State.setValue_ret (s : State) (v : Value) : (s.setValue v).ret = ⟨.value v, []⟩ := rfl
@[simp] theorem State.setValue_cur (s : State) (v : Value) : (s.setValue v).cur = s.cur := rfl
@[simp] theorem State.setValue_queue (s : State) (v : Value) : (s.setValue v).queue = s.queue := rfl
@[simp] theorem State.setValue_bench (s : State) (v : Value) : (s.setValue v).bench = s.bench := rfl
@[simp] theorem State.setValue_sched (s : State) (v : Value) : (s.setValue v).sched = s.sched := rfl
@[simp] theorem State.setValue_slots (s : State) (v : Value) : (s.setValue v).slots = s.slots := rfl
@[simp] theorem State.setValue_opened (s : State) (v : Value) : (s.setValue v).opened = s.opened := rfl
@[simp] theorem State.setValue_free (s : State) (v : Value) : (s.setValue v).free = s.free + 1 := rfl

@[simp] theorem State.afterRound_cfg (s : State) (w : Work) (evs : List Event) : (s.afterRound w evs).cfg = s.cfg := rfl
@[simp] theorem State.afterRound_reg (s : State) (w : Work) (evs : List Event) : (s.afterRound w evs).reg = s.reg := rfl
@[simp] theorem State.afterRound_ctxs (s : State) (w : Work) (evs : List Event) : (s.afterRound w evs).ctxs = s.ctxs := rfl
@[simp] theorem State.afterRound_log (s : State) (w : Work) (evs : List Event) : (s.afterRound w evs).log = s.log := rfl
@[simp] theorem State.afterRound_work (s : State) (w : Work) (evs : List Event) : (s.afterRound w evs).work = { w with out := s.work.out ++ evs } := rfl
@[simp] theorem State.afterRound_ret (s : State) (w : Work) (evs : List Event) : (s.afterRound w evs).ret = ⟨.nothing, evs⟩ := rfl
@[simp] theorem State.afterRound_cur (s : State) (w : Work) (evs : List Event) : (s.afterRound w evs).cur = s.cur := rfl
@[simp] theorem State.afterRound_queue (s : State) (w : Work) (evs : List Event) : (s.afterRound w evs).queue = s.queue := rfl
@[simp] theorem State.afterRound_bench (s : State) (w : Work) (evs : List Event) : (s.afterRound w evs).bench = s.bench := rfl
@[simp] theorem State.afterRound_sched (s : State) (w : Work) (evs : List Event) : (s.afterRound w evs).sched = s.sched := rfl
@[simp] theorem State.afterRound_slots (s : State) (w : Work) (evs : List Event) : (s.afterRound w evs).slots = s.slots := rfl
@[simp] theorem State.afterRound_opened (s : State) (w : Work) (evs : List Event) : (s.afterRound w evs).opened = s.opened := rfl
@[simp] theorem State.afterRound_free (s : State) (w : Work) (evs : List Event) : (s.afterRound w evs).free = s.free + 1 := rfl

@[simp] theorem State.inRecord_body (s : State) : s.inRecord.body = s.work.body := rfl
@[simp] theorem State.inRecord_off (s : State) : s.inRecord.off = s.work.off := rfl
@[simp] theorem State.inRecord_stop (s : State) : s.inRecord.stop = s.work.stop := rfl
@[simp] theorem State.inRecord_tag (s : State) : s.inRecord.tag = s.work.tag := rfl
@[simp] theorem State.inRecord_entries (s : State) : s.inRecord.entries = s.work.entries := rfl
@[simp] theorem State.inRecord_out (s : State) : s.inRecord.out = s.work.out := rfl

@[simp] theorem State.inBlock_body (s : State) : s.inBlock.body = s.work.body := rfl
@[simp] theorem State.inBlock_off (s : State) : s.inBlock.off = s.work.off := rfl
@[simp] theorem State.inBlock_stop (s : State) : s.inBlock.stop = s.work.stop := rfl
@[simp] theorem State.inBlock_tag (s : State) : s.inBlock.tag = s.work.tag := rfl
@[simp] theorem State.inBlock_entries (s : State) : s.inBlock.entries = s.work.entries := rfl
@[simp] theorem State.inBlock_out (s : State) : s.inBlock.out = s.work.out := rfl
@[simp] theorem State.inBlock_n (s : State) : s.inBlock.n = s.work.n := rfl
@[simp] theorem State.inBlock_blkEnd (s : State) : s.inBlock.blkEnd = s.work.blkEnd := rfl
@[simp] theorem State.inBlock_p (s : State) : s.inBlock.p = s.work.p := rfl
@[simp] theorem State.inBlock_x (s : State) : s.inBlock.x = s.work.x := rfl

@[simp] theorem State.closeContext_cfg (s : State) (k : Nat) (c : Session) (r : CloseReason) : (s.closeContext k c r).cfg = s.cfg := rfl
@[simp] theorem State.closeContext_reg (s : State) (k : Nat) (c : Session) (r : CloseReason) : (s.closeContext k c r).reg = s.reg := rfl
@[simp] theorem State.closeContext_ctxs (s : State) (k : Nat) (c : Session) (r : CloseReason) : (s.closeContext k c r).ctxs = s.ctxs.set k (Session.closedAt s.cfg s.free) := rfl
@[simp] theorem State.closeContext_log (s : State) (k : Nat) (c : Session) (r : CloseReason) : (s.closeContext k c r).log = s.log ++ [⟨c.serial, c.cid, .connectionClosed r⟩] := rfl
@[simp] theorem State.closeContext_work (s : State) (k : Nat) (c : Session) (r : CloseReason) : (s.closeContext k c r).work = Config.freeWork (s.free + 3) := rfl
@[simp] theorem State.closeContext_ret (s : State) (k : Nat) (c : Session) (r : CloseReason) : (s.closeContext k c r).ret = ⟨.nothing, [.connectionClosed r]⟩ := rfl
@[simp] theorem State.closeContext_cur (s : State) (k : Nat) (c : Session) (r : CloseReason) : (s.closeContext k c r).cur = s.cur := rfl
@[simp] theorem State.closeContext_queue (s : State) (k : Nat) (c : Session) (r : CloseReason) : (s.closeContext k c r).queue = s.queue := rfl
@[simp] theorem State.closeContext_bench (s : State) (k : Nat) (c : Session) (r : CloseReason) : (s.closeContext k c r).bench = s.bench := rfl
@[simp] theorem State.closeContext_sched (s : State) (k : Nat) (c : Session) (r : CloseReason) : (s.closeContext k c r).sched = s.sched := rfl
@[simp] theorem State.closeContext_slots (s : State) (k : Nat) (c : Session) (r : CloseReason) : (s.closeContext k c r).slots = s.slots := rfl
@[simp] theorem State.closeContext_opened (s : State) (k : Nat) (c : Session) (r : CloseReason) : (s.closeContext k c r).opened = s.opened := rfl
@[simp] theorem State.closeContext_free (s : State) (k : Nat) (c : Session) (r : CloseReason) : (s.closeContext k c r).free = s.free + 4 := rfl

@[simp] theorem Session.bufAppend_phase (c : Session) (bytes : List Byte) : (c.bufAppend bytes).phase = c.phase := rfl
@[simp] theorem Session.bufAppend_cid (c : Session) (bytes : List Byte) : (c.bufAppend bytes).cid = c.cid := rfl
@[simp] theorem Session.bufAppend_buf (c : Session) (bytes : List Byte) : (c.bufAppend bytes).buf = c.buf ++ bytes := rfl
@[simp] theorem Session.bufAppend_lastIMEI (c : Session) (bytes : List Byte) : (c.bufAppend bytes).lastIMEI = c.lastIMEI := rfl
@[simp] theorem Session.bufAppend_createdAt (c : Session) (bytes : List Byte) : (c.bufAppend bytes).createdAt = c.createdAt := rfl
@[simp] theorem Session.bufAppend_lastActivityAt (c : Session) (bytes : List Byte) : (c.bufAppend bytes).lastActivityAt = c.lastActivityAt := rfl
@[simp] theorem Session.bufAppend_serial (c : Session) (bytes : List Byte) : (c.bufAppend bytes).serial = c.serial := rfl

@[simp] theorem Session.bufDrop_phase (c : Session) (k : Nat) : (c.bufDrop k).phase = c.phase := rfl
@[simp] theorem Session.bufDrop_cid (c : Session) (k : Nat) : (c.bufDrop k).cid = c.cid := rfl
@[simp] theorem Session.bufDrop_buf (c : Session) (k : Nat) : (c.bufDrop k).buf = c.buf.drop k := rfl
@[simp] theorem Session.bufDrop_lastIMEI (c : Session) (k : Nat) : (c.bufDrop k).lastIMEI = c.lastIMEI := rfl
@[simp] theorem Session.bufDrop_createdAt (c : Session) (k : Nat) : (c.bufDrop k).createdAt = c.createdAt := rfl
@[simp] theorem Session.bufDrop_lastActivityAt (c : Session) (k : Nat) : (c.bufDrop k).lastActivityAt = c.lastActivityAt := rfl
@[simp] theorem Session.bufDrop_serial (c : Session) (k : Nat) : (c.bufDrop k).serial = c.serial := rfl

@[simp] theorem Session.settle_phase (c : Session) (cfg : Config) : (c.settle cfg).phase = phaseAfter cfg c.buf := rfl
@[simp] theorem Session.settle_cid (c : Session) (cfg : Config) : (c.settle cfg).cid = c.cid := rfl
@[simp] theorem Session.settle_buf (c : Session) (cfg : Config) : (c.settle cfg).buf = c.buf := rfl
@[simp] theorem Session.settle_lastIMEI (c : Session) (cfg : Config) : (c.settle cfg).lastIMEI = c.lastIMEI := rfl
@[simp] theorem Session.settle_createdAt (c : Session) (cfg : Config) : (c.settle cfg).createdAt = c.createdAt := rfl
@[simp] theorem Session.settle_lastActivityAt (c : Session) (cfg : Config) : (c.settle cfg).lastActivityAt = c.lastActivityAt := rfl
@[simp] theorem Session.settle_serial (c : Session) (cfg : Config) : (c.settle cfg).serial = c.serial := rfl

@[simp] theorem Session.opened_phase (cid t n : Nat) : (Session.opened cid t n).phase = .awaitingData := rfl
@[simp] theorem Session.opened_cid (cid t n : Nat) : (Session.opened cid t n).cid = cid := rfl
@[simp] theorem Session.opened_buf (cid t n : Nat) : (Session.opened cid t n).buf = [] := rfl
@[simp] theorem Session.opened_lastIMEI (cid t n : Nat) : (Session.opened cid t n).lastIMEI = none := rfl
@[simp] theorem Session.opened_createdAt (cid t n : Nat) : (Session.opened cid t n).createdAt = t := rfl
@[simp] theorem Session.opened_lastActivityAt (cid t n : Nat) : (Session.opened cid t n).lastActivityAt = t := rfl
@[simp] theorem Session.opened_serial (cid t n : Nat) : (Session.opened cid t n).serial = n := rfl

@[simp] theorem Session.closedAt_phase (cfg : Config) (n : Nat) : (Session.closedAt cfg n).phase = .closed := rfl
@[simp] theorem Session.closedAt_buf (cfg : Config) (n : Nat) : (Session.closedAt cfg n).buf = [] := rfl
@[simp] theorem Session.closedAt_lastIMEI (cfg : Config) (n : Nat) : (Session.closedAt cfg n).lastIMEI = none := rfl
@[simp] theorem Session.closedAt_serial (cfg : Config) (n : Nat) : (Session.closedAt cfg n).serial = 0 := rfl

@[simp] theorem Session.isOpen_closedAt (cfg : Config) (n : Nat) : (Session.closedAt cfg n).isOpen = false := rfl
@[simp] theorem Session.isOpen_opened (cid t n : Nat) : (Session.opened cid t n).isOpen = true := rfl

theorem Session.isOpen_iff (c : Session) : c.isOpen = true ↔ c.phase ≠ .closed := by simp [Session.isOpen]

/-- Writing `lastIMEI` of the current context changes the contexts only. -/
theorem State.setIMEI_eq (s : State) (imei : Option (List Byte)) :
    s.setIMEI imei = { s with ctxs := (s.setIMEI imei).ctxs } := by
  unfold State.setIMEI; split <;> rfl

@[simp] theorem State.setIMEI_cfg (s : State) (imei : Option (List Byte)) : (s.setIMEI imei).cfg = s.cfg := by
  rw [State.setIMEI_eq]
@[simp] theorem State.setIMEI_reg (s : State) (imei : Option (List Byte)) : (s.setIMEI imei).reg = s.reg := by
  rw [State.setIMEI_eq]
@[simp] theorem State.setIMEI_log (s : State) (imei : Option (List Byte)) : (s.setIMEI imei).log = s.log := by
  rw [State.setIMEI_eq]
@[simp] theorem State.setIMEI_work (s : State) (imei : Option (List Byte)) : (s.setIMEI imei).work = s.work := by
  rw [State.setIMEI_eq]
@[simp] theorem State.setIMEI_cur (s : State) (imei : Option (List Byte)) : (s.setIMEI imei).cur = s.cur := by
  rw [State.setIMEI_eq]
@[simp] theorem State.setIMEI_queue (s : State) (imei : Option (List Byte)) : (s.setIMEI imei).queue = s.queue := by
  rw [State.setIMEI_eq]
@[simp] theorem State.setIMEI_sched (s : State) (imei : Option (List Byte)) : (s.setIMEI imei).sched = s.sched := by
  rw [State.setIMEI_eq]
@[simp] theorem State.setIMEI_slots (s : State) (imei : Option (List Byte)) : (s.setIMEI imei).slots = s.slots := by
  rw [State.setIMEI_eq]
@[simp] theorem State.setIMEI_free (s : State) (imei : Option (List Byte)) : (s.setIMEI imei).free = s.free := by
  rw [State.setIMEI_eq]
@[simp] theorem State.setIMEI_ret (s : State) (imei : Option (List Byte)) : (s.setIMEI imei).ret = s.ret := by
  rw [State.setIMEI_eq]
@[simp] theorem State.setIMEI_bench (s : State) (imei : Option (List Byte)) : (s.setIMEI imei).bench = s.bench := by
  rw [State.setIMEI_eq]
@[simp] theorem State.setIMEI_opened (s : State) (imei : Option (List Byte)) : (s.setIMEI imei).opened = s.opened := by
  rw [State.setIMEI_eq]

end Sys2Proof.Machine
end

