-- ==== Sys2Proof/Laws/Ops.lean ====
section
/-! SUPPORT. What each shared operation can do, said once: finding a context, the current session, the free context, closing all
contexts, and the registry's write. -/

namespace Sys2Proof.Machine
open Sys2Proof

/-- A context found stands at its index, in an accepted phase, with the cid asked for. -/
theorem State.findCtx_some {s : State} {ok : Phase → Bool} {cid k : Nat} {c : Session}
    (h : s.findCtx ok cid = some (k, c)) : s.ctxs[k]? = some c ∧ ok c.phase = true ∧ c.cid = cid := by
  unfold State.findCtx at h
  split at h
  · rename_i j hj
    rw [List.findIdx?_eq_some_iff_getElem] at hj
    obtain ⟨hlt, hp, -⟩ := hj
    simp only [List.getElem?_eq_getElem hlt, Option.map_some, Option.some.injEq, Prod.mk.injEq] at h
    obtain ⟨rfl, rfl⟩ := h
    simp only [Bool.and_eq_true, beq_iff_eq] at hp
    exact ⟨List.getElem?_eq_getElem hlt, hp.1, hp.2⟩
  · cases h

/-- No context found: none has that cid in an accepted phase. -/
theorem State.findCtx_none {s : State} {ok : Phase → Bool} {cid : Nat} :
    s.findCtx ok cid = none ↔ ∀ c ∈ s.ctxs, ok c.phase = true → c.cid ≠ cid := by
  unfold State.findCtx
  split
  · rename_i j hj
    rw [List.findIdx?_eq_some_iff_getElem] at hj
    obtain ⟨hlt, hp, -⟩ := hj
    simp only [Bool.and_eq_true, beq_iff_eq] at hp
    simp only [List.getElem?_eq_getElem hlt, Option.map_some, reduceCtorEq, false_iff]
    intro h
    exact h _ (List.getElem_mem hlt) hp.1 hp.2
  · rename_i hj
    rw [List.findIdx?_eq_none_iff] at hj
    simp only [true_iff]
    intro c hc ho he
    simpa [ho, he] using hj c hc

/-- The current session stands at `cur` and is open. -/
theorem State.curSession_some {s : State} {c : Session} (h : s.curSession = some c) :
    s.ctxs[s.cur]? = some c ∧ c.isOpen = true := by
  unfold State.curSession at h
  split at h
  · split at h
    · cases h; exact ⟨by assumption, by assumption⟩
    · cases h
  · cases h

/-- The indices listed are those of Closed contexts. -/
theorem mem_closedFrom {cs : List Session} {i k : Nat} :
    k ∈ closedFrom i cs ↔ ∃ j c, k = i + j ∧ cs[j]? = some c ∧ c.isOpen = false := by
  induction cs generalizing i with
  | nil => simp [closedFrom]
  | cons c cs ih =>
    have step : (k ∈ closedFrom (i + 1) cs) ↔
        ∃ j d, k = i + (j + 1) ∧ (c :: cs)[j + 1]? = some d ∧ d.isOpen = false := by
      rw [ih]; simp only [List.getElem?_cons_succ]
      constructor <;> rintro ⟨j, d, hk, h⟩ <;> exact ⟨j, d, by omega, h⟩
    unfold closedFrom
    split
    · rename_i ho
      rw [step]
      constructor
      · rintro ⟨j, d, h⟩; exact ⟨j + 1, d, h⟩
      · rintro ⟨j, d, hk, hd, hc⟩
        cases j with
        | zero => simp only [List.getElem?_cons_zero, Option.some.injEq] at hd; subst hd; simp [ho] at hc
        | succ j => exact ⟨j, d, hk, hd, hc⟩
    · rename_i ho
      rw [List.mem_cons, step]
      constructor
      · rintro (rfl | ⟨j, d, h⟩)
        · exact ⟨0, c, rfl, rfl, by simpa using ho⟩
        · exact ⟨j + 1, d, h⟩
      · rintro ⟨j, d, hk, hd, hc⟩
        cases j with
        | zero => exact .inl hk
        | succ j => exact .inr ⟨j, d, hk, hd, hc⟩

/-- The context OPEN takes is Closed. -/
theorem State.freeContext_some {s : State} {k : Nat} (h : s.freeContext = some k) :
    ∃ c, s.ctxs[k]? = some c ∧ c.isOpen = false := by
  obtain ⟨j, c, rfl, hc, ho⟩ := mem_closedFrom.1 (List.mem_of_getElem? h)
  exact ⟨c, by simpa using hc, ho⟩

/-- OPEN finds no context exactly when every one is open. -/
theorem State.freeContext_none {s : State} : s.freeContext = none ↔ ∀ c ∈ s.ctxs, c.isOpen = true := by
  have key : s.freeContext = none ↔ closedFrom 0 s.ctxs = [] := by
    unfold State.freeContext
    generalize closedFrom 0 s.ctxs = l
    cases l with
    | nil => simp
    | cons a l =>
      simp only [reduceCtorEq, iff_false, List.getElem?_eq_none_iff, not_le]
      exact Nat.mod_lt _ (by simp)
  rw [key, List.eq_nil_iff_forall_not_mem]
  constructor
  · intro h c hc
    obtain ⟨j, hj⟩ := List.mem_iff_getElem?.1 hc
    by_contra ho
    exact h j (mem_closedFrom.2 ⟨j, c, by simp, hj, by simpa using ho⟩)
  · intro h k hk
    obtain ⟨j, c, -, hj, ho⟩ := mem_closedFrom.1 hk
    simp [h c (List.mem_of_getElem? hj)] at ho

@[simp] theorem closeAll_length (cfg : Config) (n : Nat) (cs : List Session) :
    (closeAll cfg n cs).length = cs.length := by
  induction cs generalizing n with
  | nil => rfl
  | cons c cs ih => simp [closeAll, ih]

/-- Every context after RESET is one that CLOSE leaves. -/
theorem mem_closeAll {cfg : Config} {n : Nat} {cs : List Session} {c : Session} (h : c ∈ closeAll cfg n cs) :
    ∃ m, c = Session.closedAt cfg m := by
  induction cs generalizing n with
  | nil => simp [closeAll] at h
  | cons d cs ih =>
    simp only [closeAll, List.mem_cons] at h
    rcases h with h | h
    · exact ⟨n, h⟩
    · exact ih h

/-- The head of a canonical map after a write is the old head or the new definition. -/
theorem idsRising_cons {bound : Nat} {d : TagDef} {ds : List TagDef} :
    idsRising bound (d :: ds) = true ↔
      (∀ e ∈ ds.head?, d.id < e.id) ∧ (ds = [] → d.id < bound) ∧ idsRising bound ds = true := by
  cases ds with
  | nil => simp [idsRising]
  | cons e es => simp [idsRising]

theorem insertDef_ne_nil (d : TagDef) (ds : List TagDef) : insertDef d ds ≠ [] := by
  cases ds with
  | nil => simp [insertDef]
  | cons e es => simp only [insertDef]; split <;> (try split) <;> simp

theorem insertDef_head (d : TagDef) (ds : List TagDef) :
    ∀ e ∈ (insertDef d ds).head?, e = d ∨ e ∈ ds.head? := by
  cases ds with
  | nil => simp [insertDef]
  | cons a as =>
    simp only [insertDef]
    split
    · simp
    · split <;> simp

/-- The registry's write keeps the canonical form of a map. -/
theorem insertDef_keeps_rising {bound : Nat} {d : TagDef} (hd : d.id < bound) {ds : List TagDef}
    (h : idsRising bound ds = true) : idsRising bound (insertDef d ds) = true := by
  induction ds with
  | nil => simpa [insertDef, idsRising] using hd
  | cons e es ih =>
    rw [idsRising_cons] at h
    simp only [insertDef]
    split
    · rename_i hlt
      rw [idsRising_cons, idsRising_cons]
      simp only [List.head?_cons, Option.mem_def, Option.some.injEq, forall_eq', hlt, reduceCtorEq, false_implies, true_and]
      exact h
    · split
      · rename_i heq
        rw [idsRising_cons]
        exact ⟨fun a ha => heq ▸ h.1 a ha, fun hn => heq ▸ h.2.1 hn, h.2.2⟩
      · rename_i hlt hne
        rw [idsRising_cons]
        refine ⟨fun a ha => ?_, fun hn => absurd hn (insertDef_ne_nil d es), ih h.2.2⟩
        rcases insertDef_head d es a ha with rfl | ha
        · omega
        · exact h.1 a ha

/-- REGISTER_TAG's write keeps the canonical form of the registry (`Memory.wf`). -/
theorem register_keeps_canonical (r : Registry) (id : TagId) (kind : Kind) (label : Label)
    (h : r.canonical = true) : (r.register id kind label).canonical = true := by
  simp only [Registry.canonical, Bool.and_eq_true] at h ⊢
  cases id with
  | main t => exact ⟨insertDef_keeps_rising t.isLt h.1, h.2⟩
  | ext x => exact ⟨h.1, insertDef_keeps_rising x.isLt h.2⟩

/-- The reset state's registry has the canonical form. -/
theorem reset_memory_wf : Memory.wf State.reset = true := by decide

/-- In a canonical map every id lies at or above the head's. -/
theorem lookupDef_none_of_lt {bound : Nat} {ds : List TagDef} (h : idsRising bound ds = true) {k : Nat}
    (hk : ∀ e ∈ ds.head?, k < e.id) : lookupDef ds k = none := by
  induction ds with
  | nil => rfl
  | cons e es ih =>
    rw [idsRising_cons] at h
    have h1 : k < e.id := hk e (by simp)
    simp only [lookupDef]
    rw [if_neg (by omega)]
    exact ih h.2.2 fun a ha => lt_trans h1 (h.1 a ha)

/-- A lookup after a write: the new definition at its id, the old ones elsewhere (R264). -/
theorem lookupDef_insertDef (d : TagDef) (ds : List TagDef) (k : Nat) :
    lookupDef (insertDef d ds) k = if d.id = k then some d else lookupDef ds k := by
  induction ds with
  | nil => simp [insertDef, lookupDef]
  | cons e es ih =>
    simp only [insertDef]
    split
    · simp [lookupDef]
    · split
      · rename_i heq
        simp only [lookupDef, heq]
        split <;> rfl
      · rename_i hne
        simp only [lookupDef, ih]
        split
        · rename_i he
          rw [if_neg (by omega)]
        · rfl

end Sys2Proof.Machine
end

