-- ==== Sys2Proof/Laws/Frames.lean ====
section
/-! SUPPORT. What TRY_EXTRACT, a frame step, and the operations that run one can answer, each said once. -/

namespace Sys2Proof.Machine
open Sys2Proof

/-- The declared length in the three bytes at the front of a buffer. -/
abbrev frontLength (B : List Byte) : Nat := declaredLength (halfAt B 1)

/-- When TRY_EXTRACT waits: fewer than three bytes, or an acceptable length and not all of the frame (R142, R143). -/
theorem tryExtract_incomplete_iff {max : Nat} {B : List Byte} :
    tryExtract max B = .incomplete ↔
      B.length < 3 ∨ (frontLength B ≤ max ∧ B.length < frontLength B + 5) := by
  simp only [tryExtract, frontLength]
  split
  · simp [*]
  · rename_i h3
    split
    · rename_i hl
      have hl' : ¬ declaredLength (halfAt B 1) ≤ max := by simpa [lengthOk] using hl
      simp [h3, hl']
    · rename_i hl
      have hl' : declaredLength (halfAt B 1) ≤ max := by simpa [lengthOk] using hl
      split
      · simp [*]
      · rename_i hs
        split <;> simp [h3, hl', hs]

/-- Everything TRY_EXTRACT can answer about a length out of limits (R141). -/
theorem tryExtract_badLength {max : Nat} {B : List Byte} {L k : Nat} (h : tryExtract max B = .badLength L k) :
    3 ≤ B.length ∧ L = frontLength B ∧ max < L ∧ k = 1 := by
  simp only [tryExtract] at h
  split at h
  · cases h
  · split at h
    · rename_i h3 hl
      cases h
      exact ⟨by omega, rfl, by simpa [lengthOk] using hl, rfl⟩
    · split at h
      · cases h
      · split at h <;> cases h

/-- Everything TRY_EXTRACT can answer about a checksum mismatch (R144). -/
theorem tryExtract_badChecksum {max : Nat} {B : List Byte} {rx computed : Half} {T : Nat}
    (h : tryExtract max B = .badChecksum rx computed T) :
    frontLength B ≤ max ∧ T = frontLength B + 5 ∧ T ≤ B.length
      ∧ rx = halfAt B (frontLength B + 3) ∧ computed = crc16 (B.take (frontLength B + 3)) ∧ computed ≠ rx := by
  simp only [tryExtract] at h
  split at h
  · cases h
  · split at h
    · cases h
    · rename_i hl
      split at h
      · cases h
      · rename_i hs
        split at h
        · rename_i hc
          cases h
          exact ⟨by simpa [lengthOk] using hl, rfl, by omega, rfl, rfl, by simpa [checksumOk] using hc⟩
        · cases h

/-- Everything TRY_EXTRACT can answer about a Complete frame (R145, R36). -/
theorem tryExtract_complete {max : Nat} {B : List Byte} {f : Frame} {T : Nat}
    (h : tryExtract max B = .complete f T) :
    frontLength B ≤ max ∧ T = frontLength B + 5 ∧ T ≤ B.length
      ∧ f = { hdr := byteAt B 0, len := frontLength B, ap := archivePending (halfAt B 1),
              body := slice B 3 (frontLength B + 3), checksum := halfAt B (frontLength B + 3) }
      ∧ crc16 (B.take (frontLength B + 3)) = f.checksum := by
  simp only [tryExtract] at h
  split at h
  · cases h
  · split at h
    · cases h
    · rename_i hl
      split at h
      · cases h
      · rename_i hs
        split at h
        · cases h
        · rename_i hc
          cases h
          exact ⟨by simpa [lengthOk] using hl, rfl, by omega, rfl, by simpa [checksumOk] using hc⟩

/-- Everything a frame step can do (R256): one of the three results, with its drop, its events and the phase of R260. -/
theorem Session.frameStep_cases {cfg : Config} {reg : Registry} {c c' : Session} {evs : List Event}
    (h : c.frameStep cfg reg = some (c', evs)) :
    (∃ L k, tryExtract cfg.maxBodyLen c.buf = .badLength L k ∧ c' = (c.bufDrop k).settle cfg
        ∧ evs = [.protocolError (.malformedLength L (byteAt c.buf 0))])
    ∨ (∃ rx computed T, tryExtract cfg.maxBodyLen c.buf = .badChecksum rx computed T
        ∧ c' = (c.bufDrop T).settle cfg
        ∧ evs = [.protocolError (.checksumMismatch rx computed T), .ackRequired ackRejectBytes])
    ∨ (∃ f T, tryExtract cfg.maxBodyLen c.buf = .complete f T
        ∧ c' = { (c.bufDrop T).settle cfg with lastIMEI := (completeFrame reg f c.lastIMEI).1 }
        ∧ evs = (completeFrame reg f c.lastIMEI).2) := by
  unfold Session.frameStep at h
  split at h
  · cases h
  · rename_i L k hr
    cases h; exact .inl ⟨L, k, hr, rfl, rfl⟩
  · rename_i rx computed T hr
    cases h; exact .inr (.inl ⟨rx, computed, T, hr, rfl, rfl⟩)
  · rename_i f T hr
    cases h; exact .inr (.inr ⟨f, T, hr, rfl, rfl⟩)

/-- A frame step is defined exactly when TRY_EXTRACT does not answer Incomplete (R256). -/
theorem Session.frameStep_none {cfg : Config} {reg : Registry} {c : Session} :
    c.frameStep cfg reg = none ↔ tryExtract cfg.maxBodyLen c.buf = .incomplete := by
  unfold Session.frameStep
  split <;> simp_all

/-- Everything a frame step of a context can answer. -/
theorem State.frameStepAt_next {s t : State} {k : Nat} {c : Session} (h : s.frameStepAt k c = .next t) :
    ∃ c' evs, c.frameStep s.cfg s.reg = some (c', evs) ∧ t = ((s.setCtx k c').emit c evs).done .nothing evs := by
  unfold State.frameStepAt at h
  split at h
  · cases h
  · rename_i c' evs hf
    cases h; exact ⟨c', evs, hf, rfl⟩

/-- Everything a frame class of the opcode table can answer. -/
theorem State.frameRow_next {s t : State} {bytes : List Byte} (h : s.frameRow bytes = .next t) :
    ∃ c, s.ctxs[s.cur]? = some c ∧ c.phase = .hasCompleteFrames ∧ bytes.isPrefixOf c.buf = true
      ∧ s.frameStepAt s.cur c = .next t := by
  unfold State.frameRow at h
  split at h
  · rename_i c hc
    split at h
    · rename_i hp
      split at h
      · rename_i hb; exact ⟨c, hc, hp, hb, h⟩
      · cases h
    · cases h
  · cases h

/-- Everything FRAME_STEP can answer. -/
theorem execFrameStep_next {cid : Nat} {s t : State} (h : execFrameStep cid s = .next t) :
    ∃ k c, s.ctxs[k]? = some c ∧ c.phase = .hasCompleteFrames ∧ c.cid = cid
      ∧ { s with cur := k }.frameStepAt k c = .next t := by
  unfold execFrameStep at h
  split at h
  · rename_i k c hf
    obtain ⟨h1, h2, h3⟩ := State.findCtx_some hf
    exact ⟨k, c, h1, by simpa [duePhase] using h2, h3, h⟩
  · cases h

/-- Everything handing over an acknowledgement can answer. -/
theorem State.sendAck_next {s t : State} {bytes : List Byte} (h : s.sendAck bytes = .next t) :
    ∃ c, s.curSession = some c
      ∧ t = (s.emit c [.ackRequired bytes]).done (.ack bytes) [.ackRequired bytes] := by
  unfold State.sendAck at h
  split at h
  · rename_i c hc; cases h; exact ⟨c, hc, rfl⟩
  · cases h

/-- TRY_EXTRACT read through its registers and flags is `tryExtract` (R28, R140). -/
theorem extractResult_extractRegs (w : Work) (max : Nat) (B : List Byte) :
    (w.extractRegs max B).extractResult B = tryExtract max B := by
  have hL : declaredLength (halfAt B 1) < 32768 := by rw [declaredLength_eq]; exact Nat.mod_lt _ (by decide)
  unfold Work.extractRegs Work.extractResult tryExtract
  by_cases h3 : B.length < 3
  · simp [h3]
  · have e1 : declaredLength (halfAt B 1) % 32768 = declaredLength (halfAt B 1) := Nat.mod_eq_of_lt hL
    have e2 : (declaredLength (halfAt B 1) + 5) % 65536 = declaredLength (halfAt B 1) + 5 := Nat.mod_eq_of_lt (by omega)
    by_cases hl : lengthOk max (declaredLength (halfAt B 1)) = false
    · simp [h3, hl, e1]
    · by_cases hs : B.length < declaredLength (halfAt B 1) + 5 <;> simp [h3, hl, hs, e1, e2]

end Sys2Proof.Machine
end

