-- ==== Sys2Proof/Laws/Records.lean ====
section
/-! SUPPORT. What one item of a record or of an extended block can do, and what the operations over them can answer. -/

namespace Sys2Proof.Machine
open Sys2Proof

/-- Everything one extended item can do (R195, R199, R200). -/
theorem extItem_cases (reg : Registry) (x : Half) (value : List Byte) (p : Nat) (b : Blk) :
    (reg.extDef x = none ∧ extItem reg x value p b = { b with out := b.out ++ [.protocolError (.unknownTag (.ext x) p)] })
    ∨ (∃ d, reg.extDef x = some d ∧ value.length < d.kind.width ∧ extItem reg x value p b =
        { b with out := b.out ++
            [.protocolError (.truncatedTag .ext (some (.ext x)) p d.kind.width value.length)] })
    ∨ (∃ d, reg.extDef x = some d ∧ d.kind.width ≤ value.length ∧ extItem reg x value p b =
        { b with entries := b.entries ++
            [⟨.ext x, d.kind, value.take d.kind.width, decodeValue d.kind (value.take d.kind.width)⟩] }) := by
  unfold extItem
  split
  · rename_i d hd
    split
    · rename_i h; exact .inr (.inl ⟨d, hd, h, rfl⟩)
    · rename_i h; exact .inr (.inr ⟨d, hd, by omega, rfl⟩)
  · rename_i hd; exact .inl ⟨hd, rfl⟩

/-- Everything one main-space item can do (R183 to R185, R190). -/
theorem mainItem_cases (reg : Registry) (t : Byte) (value : List Byte) (stop : Nat) (d : Dec) :
    (reg.mainDef t = none ∧ mainItem reg t value stop d =
        { d with out := d.out ++ [.protocolError (.unknownTag (.main t) d.off)],
                 off := d.off + 1 + min 4 value.length })
    ∨ (∃ f, reg.mainDef t = some f ∧ value.length < f.kind.width ∧ mainItem reg t value stop d =
        { d with out := d.out ++
            [.protocolError (.truncatedTag .main (some (.main t)) d.off f.kind.width value.length)], off := stop })
    ∨ (∃ f, reg.mainDef t = some f ∧ f.kind.width ≤ value.length ∧ mainItem reg t value stop d =
        { d with
          entries := d.entries ++
            [⟨.main t, f.kind, value.take f.kind.width, decodeValue f.kind (value.take f.kind.width)⟩]
          imei := if t = tagIMEI then some (value.take f.kind.width) else d.imei
          off := d.off + 1 + f.kind.width }) := by
  unfold mainItem
  split
  · rename_i f hf
    split
    · rename_i h; exact .inr (.inl ⟨f, hf, h, rfl⟩)
    · rename_i h; exact .inr (.inr ⟨f, hf, by omega, rfl⟩)
  · rename_i hf; exact .inl ⟨hf, rfl⟩

/-- Where the main parser resumes after an escape (R186, R196, R197). -/
theorem decodeExt_next (reg : Registry) (rest : List Byte) (off stop tagAt : Nat) :
    (decodeExt reg rest off stop tagAt).2 =
      if rest.length < 2 ∨ rest.length - 2 < u16le rest 0 then stop else off + 2 + u16le rest 0 := by
  unfold decodeExt
  split
  · simp [*]
  · simp only [List.length_drop]
    split <;> rename_i h <;> simp at h <;> split <;> omega

/-- In a legal registry the IMEI is fifteen bytes (R9). -/
theorem mainDef_imei_of_legal {reg : Registry} (h : reg.legal = true) :
    reg.mainDef tagIMEI = some ⟨3, .fixedString 15, imeiLabel⟩ := by
  simp only [Registry.legal, Bool.and_eq_true, decide_eq_true_eq] at h
  exact h.1.1.1

/-- In a legal registry the escape is no main tag (R9). -/
theorem mainDef_escape_of_legal {reg : Registry} (h : reg.legal = true) : reg.mainDef tagESCAPE = none := by
  simp only [Registry.legal, Bool.and_eq_true, Option.isNone_iff_eq_none] at h
  exact h.1.1.2

/-- Everything DECODE_RECORD can answer (R170, R180). -/
theorem execDecodeRecord_next {cid : Nat} {body : List Byte} {start stop : Nat} {s t : State}
    (h : execDecodeRecord cid body start stop s = .next t) :
    ∃ k c, s.findCtx openPhase cid = some (k, c) ∧ body.length ≤ 32767 ∧ start ≤ stop ∧ stop ≤ body.length
      ∧ t = (let d := decodeRecord s.reg body start stop c.lastIMEI
        ({ s with cur := k }.setCtx k { c with lastIMEI := d.imei }).done (.entries d.entries d.off) d.out) := by
  unfold execDecodeRecord at h
  split at h
  · cases h
  · rename_i k c hf
    split at h
    · rename_i hb; cases h; exact ⟨k, c, hf, hb.1, hb.2.1, hb.2.2, rfl⟩
    · cases h

/-- Everything DECODE_EXT can answer (R195). -/
theorem execDecodeExt_next {body : List Byte} {off stop tagAt : Nat} {s t : State}
    (h : execDecodeExt body off stop tagAt s = .next t) :
    body.length ≤ 32767 ∧ off ≤ stop ∧ stop ≤ body.length
      ∧ t = (let r := decodeExt s.reg (slice body off stop) off stop tagAt
        s.done (.entries r.1.entries r.2) r.1.out) := by
  unfold execDecodeExt at h
  split at h
  · rename_i hb; cases h; exact ⟨hb.1, hb.2.1, hb.2.2, rfl⟩
  · cases h

/-- The contexts after an IMEI write: one open context's `lastIMEI`, or none. -/
theorem State.setIMEI_ctxs (s : State) (imei : Option (List Byte)) :
    (s.curSession = none ∧ (s.setIMEI imei).ctxs = s.ctxs)
      ∨ (∃ c, s.curSession = some c ∧ (s.setIMEI imei).ctxs = s.ctxs.set s.cur { c with lastIMEI := imei }) := by
  unfold State.setIMEI
  cases h : s.curSession with
  | none => exact .inl ⟨rfl, rfl⟩
  | some c => exact .inr ⟨c, rfl, rfl⟩

/-- Writing back the `lastIMEI` that stands there changes nothing. -/
theorem State.setIMEI_curIMEI (s : State) : s.setIMEI s.curIMEI = s := by
  unfold State.setIMEI State.curIMEI
  cases h : s.curSession with
  | none => rfl
  | some c =>
    obtain ⟨hl, hv⟩ := List.getElem?_eq_some_iff.1 (State.curSession_some h).1
    have key : s.ctxs.set s.cur { c with lastIMEI := c.lastIMEI } = s.ctxs := by
      rw [show ({ c with lastIMEI := c.lastIMEI } : Session) = c from rfl, ← hv]; simp
    simp only [State.setCtx, key]

/-- Everything one round of the main loop does (R180): the registers as `mainItem` says, and of the contexts the current one's
`lastIMEI`. -/
theorem State.tagRound_spec (s : State) (t : Byte) (value : List Byte) :
    let d := mainItem s.reg t value s.work.stop.toNat ⟨s.work.off.toNat, s.work.entries, s.curIMEI, []⟩
    let s' := s.tagRound t value
    s' = { s.afterRound { s.inRecord with tag := t, off := BitVec.ofNat 16 d.off, entries := d.entries } d.out with
        ctxs := s'.ctxs }
      ∧ (s.curSession = none → s'.ctxs = s.ctxs)
      ∧ ∀ c, s.curSession = some c → s'.ctxs = s.ctxs.set s.cur { c with lastIMEI := d.imei } := by
  intro d s'
  have hcur : ∀ (w : Work) (evs : List Event), (s.afterRound w evs).curSession = s.curSession := fun _ _ => rfl
  refine ⟨State.setIMEI_eq _ _, fun h => ?_, fun c h => ?_⟩
  · rcases State.setIMEI_ctxs (s.afterRound _ d.out) d.imei with ⟨-, he⟩ | ⟨c, hc, -⟩
    · exact he
    · rw [hcur, h] at hc; cases hc
  · rcases State.setIMEI_ctxs (s.afterRound _ d.out) d.imei with ⟨hc, -⟩ | ⟨c', hc, he⟩
    · rw [hcur, h] at hc; cases hc
    · rw [hcur, h] at hc; cases hc; exact he

/-- What the loop over an extended block adds: entries of the extended space, and events. -/
theorem extLoop_adds (reg : Registry) (fuel : Nat) (rest : List Byte) (p : Nat) (b : Blk) :
    ∃ es evs, extLoop reg fuel rest p b = ⟨b.entries ++ es, b.out ++ evs⟩ ∧ ∀ e ∈ es, ∃ x, e.id = .ext x := by
  induction fuel generalizing rest p b with
  | zero => exact ⟨[], [], by simp [extLoop], by simp⟩
  | succ n ih =>
    match rest with
    | [] => exact ⟨[], [], by simp [extLoop], by simp⟩
    | [_] => exact ⟨[], _, by simp only [extLoop, raise, List.append_nil]; rfl, by simp⟩
    | x0 :: x1 :: rest =>
      simp only [extLoop]
      generalize halfAt [x0, x1] 0 = x
      obtain ⟨es, evs, h, hx⟩ := ih (rest.drop (reg.extWidth x)) (p + 2 + reg.extWidth x)
        (extItem reg x (rest.take (reg.extWidth x)) p b)
      rw [h]
      rcases extItem_cases reg x (rest.take (reg.extWidth x)) p b with ⟨-, he⟩ | ⟨d, -, -, he⟩ | ⟨d, -, -, he⟩ <;> rw [he]
      · exact ⟨es, _ :: evs, by simp only [List.append_assoc, List.singleton_append]; rfl, hx⟩
      · exact ⟨es, _ :: evs, by simp only [List.append_assoc, List.singleton_append]; rfl, hx⟩
      · refine ⟨_ :: es, evs, by simp only [List.append_assoc, List.singleton_append]; rfl, ?_⟩
        intro e he
        rcases List.mem_cons.1 he with rfl | he
        · exact ⟨x, rfl⟩
        · exact hx e he

end Sys2Proof.Machine
end

