-- ==== Sys2Proof/Laws/Sessions.lean ====
section
/-! SUPPORT. What each host operation and the end of a FEED can answer, each said once. -/

namespace Sys2Proof.Machine
open Sys2Proof

/-- Everything OPEN can answer (R250). -/
theorem execOpenSession_next {cid t : Nat} {s s' : State} (h : execOpenSession cid t s = .next s') :
    cid < 2 ^ s.cfg.cidW ∧ t < 2 ^ s.cfg.tsW ∧ s.findCtx openPhase cid = none
      ∧ ∃ k, s.freeContext = some k
        ∧ s' = { (s.setCtx k (Session.opened cid t (s.opened + 1))) with
            slots := s.slots.tail, opened := s.opened + 1 }.done .nothing [] := by
  unfold execOpenSession at h
  split at h
  · rename_i hw
    split at h
    · cases h
    · rename_i hn
      split at h
      · cases h
      · rename_i k hk; cases h; exact ⟨hw.1, hw.2, hn, k, hk, rfl⟩
  · cases h

/-- Everything FEED can answer (R252, R253, R260). -/
theorem execFeed_next {cid t : Nat} {chunk : List Byte} {s s' : State} (h : execFeed cid chunk t s = .next s') :
    t < 2 ^ s.cfg.tsW ∧ ∃ k c, s.findCtx waitingPhase cid = some (k, c)
      ∧ ((chunk = [] ∧ s' = { s with ret := ⟨.nothing, []⟩ })
        ∨ (chunk ≠ [] ∧ s' =
            (s.setCtx k (({ c with lastActivityAt := t }.bufAppend chunk).settle s.cfg)).done .nothing [])) := by
  unfold execFeed at h
  split at h
  · rename_i hw
    split at h
    · cases h
    · rename_i k c hf
      split at h
      · rename_i hc; cases h; exact ⟨hw, k, c, hf, .inl ⟨hc, rfl⟩⟩
      · rename_i hc; cases h; exact ⟨hw, k, c, hf, .inr ⟨hc, rfl⟩⟩
  · cases h

/-- Everything CLOSE can answer (R262). -/
theorem execCloseSession_next {cid : Nat} {reason : HostReason} {s s' : State}
    (h : execCloseSession cid reason s = .next s') :
    ∃ k c, s.findCtx openPhase cid = some (k, c) ∧ s' = s.closeContext k c (closeReasonOf reason) := by
  unfold execCloseSession at h
  split at h
  · cases h
  · rename_i k c hf; cases h; exact ⟨k, c, hf, rfl⟩

/-- Everything REGISTER_TAG can answer (R264). -/
theorem execRegisterTag_next {id : TagId} {kind : Kind} {label : Label} {s s' : State}
    (h : execRegisterTag id kind label s = .next s') :
    s.ctxs.any Session.isOpen = false ∧ (s.reg.register id kind label).legal = true
      ∧ s' = { s with reg := s.reg.register id kind label }.done .nothing [] := by
  unfold execRegisterTag at h
  split at h
  · cases h
  · rename_i ho
    dsimp only at h
    split at h
    · rename_i hl; cases h; exact ⟨by simpa using ho, hl, rfl⟩
    · cases h

/-- The end of a FEED: closed on the stall limit, or waiting again (R260, R263). -/
theorem State.endFeed_cases (s : State) (k : Nat) (c : Session) :
    (stalled s.cfg c.buf = true ∧ s.endFeed k c = s.closeContext k c .stallLimit)
      ∨ (stalled s.cfg c.buf = false ∧ s.endFeed k c = s.setCtx k { c with phase := .awaitingData }) := by
  unfold State.endFeed
  cases h : stalled s.cfg c.buf <;> simp

end Sys2Proof.Machine
end

