-- ==== Sys2Proof/Laws/Step.lean ====
section
/-! SUPPORT. What a step can be, said once: who moved, and what it ran. -/

namespace Sys2Proof.Machine
open Sys2Proof

/-- Nobody moves only where nothing is due: no session's step, no host operation, nothing on the bench. -/
theorem State.defaultTurn_cases (s : State) :
    (∃ k, s.defaultTurn = some (.session k) ∧ s.due k = true)
    ∨ ((∀ c ∈ s.ctxs, c.isDue = false) ∧
      ((s.defaultTurn = some .host ∧ s.queue ≠ [])
        ∨ (s.queue = [] ∧ s.defaultTurn = some .bench ∧ s.bench ≠ [])
        ∨ (s.queue = [] ∧ s.bench = [] ∧ s.defaultTurn = none))) := by
  unfold State.defaultTurn
  cases h : s.ctxs.findIdx? Session.isDue with
  | some k =>
    rw [List.findIdx?_eq_some_iff_getElem] at h
    obtain ⟨hlt, hp, -⟩ := h
    refine .inl ⟨k, rfl, ?_⟩
    unfold State.due
    rw [List.getElem?_eq_getElem hlt]
    exact hp
  | none =>
    rw [List.findIdx?_eq_none_iff] at h
    refine .inr ⟨h, ?_⟩
    by_cases hq : s.queue = []
    · by_cases hb : s.bench = [] <;> simp [hq, hb]
    · simp [hq]

/-- Who moves can move. -/
theorem State.pick_canMove {s : State} {turn : Turn} (h : s.pick = some turn) : s.canMove turn = true := by
  have hdef : s.defaultTurn = some turn → s.canMove turn = true := by
    intro h
    rcases s.defaultTurn_cases with ⟨k, hk, hd⟩ | ⟨-, ⟨hk, hq⟩ | ⟨-, hk, hb⟩ | ⟨-, -, hk⟩⟩ <;> rw [hk] at h <;> cases h
    · exact hd
    · simpa [State.canMove] using hq
    · simpa [State.canMove] using hb
  unfold State.pick at h
  split at h
  · split at h
    · cases h; assumption
    · exact hdef h
  · exact hdef h

/-- A session that moves is due. -/
theorem State.pick_session {s : State} {k : Nat} (h : s.pick = some (.session k)) :
    ∃ c, s.ctxs[k]? = some c ∧ (c.phase = .hasCompleteFrames ∨ c.phase = .idle) := by
  have hk : s.due k = true := State.pick_canMove h
  unfold State.due at hk
  split at hk
  · rename_i c hc; exact ⟨c, hc, by simpa [Session.isDue] using hk⟩
  · cases hk

/-- The host moves only with an operation waiting. -/
theorem State.pick_host {s : State} (h : s.pick = some .host) : s.queue ≠ [] := by
  have := State.pick_canMove h
  simpa [State.canMove] using this

/-- The bench moves only with something on it. -/
theorem State.pick_bench {s : State} (h : s.pick = some .bench) : s.bench ≠ [] := by
  have := State.pick_canMove h
  simpa [State.canMove] using this

/-- Everything a step that answers a next state can be: waiting; the end of a FEED; a session's frame, or FRAME_STEP; an operation of
the host; or an internal operation or an item on the bench. -/
theorem step_cases {s t : State} (h : step s = .next t) :
    (s.pick = none ∧ t = s)
    ∨ (∃ k c, s.pick = some (.session k) ∧ s.ctxs[k]? = some c ∧ c.phase = .idle
        ∧ t = { s with sched := s.sched.tail }.endFeed k c)
    ∨ (∃ k c i, s.pick = some (.session k) ∧ s.ctxs[k]? = some c ∧ c.phase = .hasCompleteFrames
        ∧ ((∃ rest, decodeFrame c.buf = .ok (i, rest)) ∨ i = .frameStep c.cid)
        ∧ exec i { s with sched := s.sched.tail, cur := k } = .next t)
    ∨ (∃ o rest, s.pick = some .host ∧ s.queue = o :: rest
        ∧ exec o.instr { s with sched := s.sched.tail, queue := rest } = .next t)
    ∨ (∃ o rest, s.pick = some .bench ∧ s.bench = .op o :: rest
        ∧ exec o.instr { s with sched := s.sched.tail, bench := rest } = .next t)
    ∨ (∃ f bytes rest i left, s.pick = some .bench ∧ s.bench = .item f bytes :: rest ∧ decode s.reg f bytes = .ok (i, left)
        ∧ exec i ({ s with sched := s.sched.tail, bench := rest }.loadSpan f bytes) = .next t) := by
  unfold step State.fetch at h
  cases hp : s.pick with
  | none => rw [hp] at h; cases h; exact .inl ⟨rfl, rfl⟩
  | some turn =>
    rw [hp] at h
    cases turn with
    | host =>
      simp only [State.fetchHost] at h
      cases hq : s.queue with
      | nil => exact absurd hq (State.pick_host hp)
      | cons o rest => rw [hq] at h; exact .inr (.inr (.inr (.inl ⟨o, rest, rfl, rfl, h⟩)))
    | bench =>
      simp only [State.fetchBench] at h
      cases hq : s.bench with
      | nil => exact absurd hq (State.pick_bench hp)
      | cons r rest =>
        rw [hq] at h
        cases r with
        | op o => exact .inr (.inr (.inr (.inr (.inl ⟨o, rest, rfl, rfl, h⟩))))
        | item f bytes =>
          cases hd : decode s.reg f bytes with
          | error e => simp [hd] at h
          | ok r =>
            obtain ⟨i, left⟩ := r
            simp only [hd] at h
            exact .inr (.inr (.inr (.inr (.inr ⟨f, bytes, rest, i, left, rfl, rfl, hd, h⟩))))
    | session k =>
      obtain ⟨c, hc, hdue⟩ := State.pick_session hp
      simp only [State.fetchSession, hc] at h
      by_cases hi : c.phase = .idle
      · rw [if_pos hi] at h; cases h; exact .inr (.inl ⟨k, c, rfl, hc, hi, rfl⟩)
      · rw [if_neg hi] at h
        have hf : c.phase = .hasCompleteFrames := hdue.resolve_right hi
        simp only [decode] at h
        cases hd : decodeFrame c.buf with
        | error e =>
          simp only [hd] at h
          exact .inr (.inr (.inl ⟨k, c, _, rfl, hc, hf, .inr rfl, h⟩))
        | ok r =>
          obtain ⟨i, rest⟩ := r
          simp only [hd] at h
          exact .inr (.inr (.inl ⟨k, c, i, rfl, hc, hf, .inl ⟨rest, hd⟩, h⟩))

end Sys2Proof.Machine
end

