-- ==== Sys2Proof/Tests/Slice0.lean ====
section
/-! SUPPORT. The model's own tests: ill-formed terms refused, every item decoded from bytes the spec writes out, one step
each on small states, and for every statement with hypotheses a witness that meets them. Expected results are those of
`95_test_vectors.md` or are written out from the rule named. -/

namespace Sys2Proof.Tests
open Sys2Proof Sys2Proof.Machine

set_option Elab.async false

/-! ## Helpers -/

/-- The next state, if that is the outcome. -/
def next? : Host.Outcome State Fault Refusal → Option State
  | .next s => some s
  | _ => none

/-- The fault, if that is the outcome. -/
def fault? : Host.Outcome State Fault Refusal → Option Fault
  | .fault f => some f
  | _ => none

/-- The refusal, if that is the outcome. -/
def refusal? : Host.Outcome State Fault Refusal → Option Refusal
  | .refused r => some r
  | _ => none

theorem exists_next {o : Host.Outcome State Fault Refusal} (h : (next? o).isSome = true) : ∃ t, o = .next t := by
  cases o with
  | next t => exact ⟨t, rfl⟩
  | fault f => cases h
  | refused r => cases h

/-- IMEI1 of `95_test_vectors.md`. -/
def imei1 : List Byte := [0x31, 0x32, 0x33, 0x34, 0x35, 0x36, 0x37, 0x38, 0x39, 0x30, 0x31, 0x32, 0x33, 0x34, 0x35]

/-- The frame F of program P1. -/
def frameF : List Byte := [0x01, 0x10, 0x00, 0x03] ++ imei1 ++ [0xED, 0x4E]

/-- The keepalive K of program P2 (V27). -/
def frameK : List Byte := [0x15, 0x00, 0x00, 0x60, 0x04]

/-- REG_MIN with three of REG_REF's entries. -/
def regTest : Registry :=
  ((regMin.register (.main 0x10) .uint16 ['n', 'o']).register (.main 0x35) .uint8 ['H']).register (.ext 0x0005) .uint16 ['x']

/-- A session with this cid, phase and buffer, numbered 1. -/
def sess (cid : Nat) (phase : Phase) (buf : List Byte) : Session :=
  { Session.atReset with cid := cid, phase := phase, buf := buf, serial := 1 }

/-- A block with these contexts, in which two sessions have been opened. -/
def block (ctxs : List Session) : State :=
  { State.reset with cfg := { State.reset.cfg with nSess := ctxs.length }, ctxs := ctxs, opened := 2 }

/-- A block with one waiting session, the test registry, and the decoder at offset 0 of a span of `n` bytes. -/
def decoding (n : Nat) : State :=
  { block [sess 7 .awaitingData []] with
    reg := regTest, work := { Work.atReset with stop := BitVec.ofNat 16 n, blkEnd := BitVec.ofNat 17 n } }

/-- The invariant of one context, as a test. -/
def sessionOk (cfg : Config) (c : Session) : Bool :=
  decide (c.cid < 2 ^ cfg.cidW) && decide (c.createdAt < 2 ^ cfg.tsW) && decide (c.lastActivityAt < 2 ^ cfg.tsW)
    && c.lastIMEI.all (fun v => v.length == 15)
    && match c.phase with
      | .closed => c.buf == [] && c.lastIMEI == none
      | .awaitingData => decide (tryExtract cfg.maxBodyLen c.buf = .incomplete) && !stalled cfg c.buf
      | .idle => decide (tryExtract cfg.maxBodyLen c.buf = .incomplete)
      | .hasCompleteFrames => decide (tryExtract cfg.maxBodyLen c.buf ≠ .incomplete)

theorem wf_of_sessionOk {cfg : Config} {c : Session} (h : sessionOk cfg c = true) : c.Wf cfg := by
  obtain ⟨phase, cid, buf, lastIMEI, createdAt, lastActivityAt, serial⟩ := c
  unfold Session.Wf
  cases phase <;> cases lastIMEI <;> simp_all [sessionOk]

theorem inv_of_checks {s : State} (h : (s.cfg.legal && decide (s.ctxs.length = s.cfg.nSess) && s.reg.legal && Memory.wf s
      && s.ctxs.all (fun c => sessionOk s.cfg c && decide (c.serial ≤ s.opened)) && s.log.all (fun e => decide (e.serial ≤ s.opened)))
      = true)
    (hp : s.ctxs.Pairwise fun a b => a.isOpen = true → b.isOpen = true → a.cid ≠ b.cid ∧ a.serial ≠ b.serial) : s.Inv := by
  simp only [Bool.and_eq_true, decide_eq_true_eq, List.all_eq_true] at h
  obtain ⟨⟨⟨⟨⟨h1, h2⟩, h3⟩, h4⟩, h5⟩, h6⟩ := h
  exact ⟨h1, h2, h3, h4, fun c hc => ⟨wf_of_sessionOk (h5 c hc).1, (h5 c hc).2⟩, h6, hp⟩

/-! ## Ill-formed terms are refused -/

/-- One byte more than a length field can declare. -/
def longBody : List Byte := List.replicate 32768 0

theorem longBody_length : longBody.length = 32768 := List.length_replicate

theorem longBody_unfit : bodyFits longBody = false := by unfold bodyFits; rw [longBody_length]; decide

theorem test_illformed_telemetry : (Instr.telemetry false longBody 0).wellFormed {} regMin = false := by
  simp [Instr.wellFormed, longBody_unfit]
theorem test_illformed_keepalive : (Instr.keepalive false longBody 0).wellFormed {} regMin = false := by
  simp [Instr.wellFormed, longBody_unfit]
theorem test_illformed_extension_body : (Instr.extension 7 false longBody 0).wellFormed {} regMin = false := by
  simp [Instr.wellFormed, longBody_unfit]
theorem test_illformed_extension_header : (Instr.extension 0x01 false [] 0).wellFormed {} regMin = false
    ∧ (Instr.extension 0x15 false [] 0).wellFormed {} regMin = false := by decide
theorem test_illformed_tagEscape : (Instr.tagEscape [0x00] []).wellFormed {} regMin = false
    ∧ (Instr.tagEscape [0x01, 0x00] []).wellFormed {} regMin = false := by decide
theorem test_illformed_tagImei : (Instr.tagImei [0x31]).wellFormed {} regMin = false := by decide
theorem test_illformed_tagRecstart : (Instr.tagRecstart [0x31]).wellFormed {} regMin = false
    ∧ (Instr.tagRecstart [0x31]).wellFormed {} regTest = false := by decide
theorem test_illformed_tagKnown : (Instr.tagKnown 0x35 []).wellFormed {} regTest = false
    ∧ (Instr.tagKnown 0x36 [0, 0, 0, 0]).wellFormed {} regTest = false ∧ (Instr.tagKnown 0x03 imei1).wellFormed {} regTest = false
    ∧ (Instr.tagKnown 0x10 [0, 0]).wellFormed {} regTest = false
    ∧ (Instr.tagKnown 0xFE [0, 0, 0, 0]).wellFormed {} regTest = false := by decide
theorem test_illformed_tagUnknown : (Instr.tagUnknown 0x35 [0, 0, 0, 0]).wellFormed {} regTest = false
    ∧ (Instr.tagUnknown 0x36 [0, 0, 0]).wellFormed {} regTest = false ∧ (Instr.tagUnknown 0x03 [0, 0, 0, 0]).wellFormed {} regMin = false
    ∧ (Instr.tagUnknown 0x10 [0, 0, 0, 0]).wellFormed {} regMin = false
    ∧ (Instr.tagUnknown 0xFE [0, 0, 0, 0]).wellFormed {} regMin = false := by decide
theorem test_illformed_xtagModbus : (Instr.xtagModbus [0, 0, 0]).wellFormed {} regMin = false := by decide
theorem test_illformed_xtagKnown : (Instr.xtagKnown 5 [0]).wellFormed {} regTest = false
    ∧ (Instr.xtagKnown 6 [0, 0, 0, 0]).wellFormed {} regTest = false ∧ (Instr.xtagKnown 1 [0, 0, 0, 0]).wellFormed {} regTest = false := by
  decide
theorem test_illformed_xtagUnknown : (Instr.xtagUnknown 5 [0, 0, 0, 0]).wellFormed {} regTest = false
    ∧ (Instr.xtagUnknown 6 [0, 0]).wellFormed {} regTest = false
    ∧ (Instr.xtagUnknown 1 [0, 0, 0, 0]).wellFormed {} ⟨[], []⟩ = false := by decide
theorem test_illformed_fixedString : (Instr.kindFixedString []).wellFormed {} regMin = false
    ∧ (Instr.kindFixedString longBody).wellFormed {} regMin = false := by simp [Instr.wellFormed, longBody_length]
theorem test_illformed_open : (Instr.openSession 4294967296 0).wellFormed {} regMin = false
    ∧ (Instr.openSession 0 18446744073709551616).wellFormed {} regMin = false := by decide
theorem test_illformed_feed : (Instr.feed 4294967296 [] 0).wellFormed {} regMin = false
    ∧ (Instr.feed 0 [] 18446744073709551616).wellFormed {} regMin = false := by decide
theorem test_illformed_close : (Instr.closeSession 4294967296 .close).wellFormed {} regMin = false := by decide
theorem test_illformed_registerTag : (Instr.registerTag (.main 0xFE) .uint8 []).wellFormed {} regMin = false
    ∧ (Instr.registerTag (.main 0x03) .uint8 imeiLabel).wellFormed {} regMin = false
    ∧ (Instr.registerTag (.ext 9) (.fixedString 0) []).wellFormed {} regMin = false := by decide
theorem test_illformed_split : (Instr.split [0, 0] 1).wellFormed {} regMin = false
    ∧ (Instr.split longBody 32768).wellFormed {} regMin = false := by simp [Instr.wellFormed, longBody_unfit]
theorem test_illformed_decodeRecord : (Instr.decodeRecord 4294967296 [0] 0 1).wellFormed {} regMin = false
    ∧ (Instr.decodeRecord 0 [0] 1 0).wellFormed {} regMin = false ∧ (Instr.decodeRecord 0 [0] 0 2).wellFormed {} regMin = false
    ∧ (Instr.decodeRecord 0 longBody 0 1).wellFormed {} regMin = false := by
  refine ⟨by decide, by decide, by decide, ?_⟩; simp [Instr.wellFormed, longBody_unfit]
theorem test_illformed_decodeExt : (Instr.decodeExt [0, 0] 1 2 1).wellFormed {} regMin = false
    ∧ (Instr.decodeExt [0, 0] 2 1 0).wellFormed {} regMin = false ∧ (Instr.decodeExt [0, 0] 1 3 0).wellFormed {} regMin = false
    ∧ (Instr.decodeExt longBody 1 2 0).wellFormed {} regMin = false := by
  refine ⟨by decide, by decide, by decide, ?_⟩; simp [Instr.wellFormed, longBody_unfit]
theorem test_illformed_frameStep : (Instr.frameStep 4294967296).wellFormed {} regMin = false := by decide

/-! ## Decoding: bytes written out from R80 to R91 -/

theorem test_decode_telemetry : decode regMin .frameHdr ([0x01, 0x02, 0x80, 0xAA, 0xBB, 0x34, 0x12] ++ [0x77])
    = .ok (.telemetry true [0xAA, 0xBB] 0x1234, [0x77]) := by decide
theorem test_decode_keepalive : decode regMin .frameHdr [0x15, 0x00, 0x00, 0x60, 0x04] = .ok (.keepalive false [] 0x0460, []) := by
  decide
theorem test_decode_extension : decode regMin .frameHdr [0x07, 0x02, 0x00, 0xAA, 0xBB, 0xAE, 0xAB]
    = .ok (.extension 0x07 false [0xAA, 0xBB] 0xABAE, []) := by decide
theorem test_decode_tagEscape : decode regMin .tag8 [0xFE, 0x03, 0x00, 0x01, 0x02, 0x03, 0x04]
    = .ok (.tagEscape [0x03, 0x00] [0x01, 0x02, 0x03], [0x04]) := by decide
theorem test_decode_tagImei : decode regMin .tag8 (0x03 :: imei1 ++ [0x04]) = .ok (.tagImei imei1, [0x04]) := by decide
theorem test_decode_tagRecstart : decode regTest .tag8 [0x10, 0x01, 0x02, 0x03] = .ok (.tagRecstart [0x01, 0x02], [0x03])
    ∧ decode regMin .tag8 [0x10, 0x01, 0x02, 0x03, 0x04, 0x05] = .ok (.tagRecstart [0x01, 0x02, 0x03, 0x04], [0x05]) := by decide
theorem test_decode_tagKnown : decode regTest .tag8 [0x35, 0x2A, 0x03] = .ok (.tagKnown 0x35 [0x2A], [0x03]) := by decide
theorem test_decode_tagUnknown : decode regTest .tag8 [0x99, 0xAA, 0xBB, 0xCC, 0xDD, 0x03]
    = .ok (.tagUnknown 0x99 [0xAA, 0xBB, 0xCC, 0xDD], [0x03]) := by decide
theorem test_decode_xtagModbus : decode regMin .tag16 [0x01, 0x00, 0x40, 0xE2, 0x01, 0x00, 0x09]
    = .ok (.xtagModbus [0x40, 0xE2, 0x01, 0x00], [0x09]) := by decide
theorem test_decode_xtagKnown : decode regTest .tag16 [0x05, 0x00, 0x40, 0xE2, 0x09] = .ok (.xtagKnown 0x0005 [0x40, 0xE2], [0x09]) := by
  decide
theorem test_decode_xtagUnknown : decode regTest .tag16 [0x00, 0x05, 0x40, 0xE2, 0x09, 0x08, 0x07]
    = .ok (.xtagUnknown 0x0500 [0x40, 0xE2, 0x09, 0x08], [0x07]) := by decide
theorem test_decode_kinds_8 : decode regMin (.kind .uint8) [0x2A, 0x01] = .ok (.kindUint8 0x2A, [0x01])
    ∧ decode regMin (.kind .int8) [0xE7] = .ok (.kindInt8 0xE7, []) := by decide
theorem test_decode_kinds_16 : decode regMin (.kind .uint16) [0xE4, 0x2E] = .ok (.kindUint16 0xE4 0x2E, [])
    ∧ decode regMin (.kind .int16) [0x38, 0xFF] = .ok (.kindInt16 0x38 0xFF, [])
    ∧ decode regMin (.kind .statusBits) [0x05, 0x00] = .ok (.kindStatusBits 0x05 0x00, [])
    ∧ decode regMin (.kind .ioBitfield) [0x01, 0x80] = .ok (.kindIoBitfield 0x01 0x80, []) := by decide
theorem test_decode_kinds_32 : decode regMin (.kind .uint32) [0x78, 0x56, 0x34, 0x12] = .ok (.kindUint32 0x78 0x56 0x34 0x12, [])
    ∧ decode regMin (.kind .int32) [0x00, 0x34, 0xFB, 0xFD] = .ok (.kindInt32 0x00 0x34 0xFB 0xFD, [])
    ∧ decode regMin (.kind .dateTimeSeconds) [0x00, 0xF1, 0x53, 0x65] = .ok (.kindDateTimeSeconds 0x00 0xF1 0x53 0x65, [])
    ∧ decode regMin (.kind .modbusScaled) [0x40, 0xE2, 0x01, 0x00] = .ok (.kindModbusScaled 0x40 0xE2 0x01 0x00, [])
    ∧ decode regMin (.kind .speedDirection) [0x5D, 0x02, 0x08, 0x07] = .ok (.kindSpeedDirection 0x5D 0x02 0x08 0x07, []) := by
  decide
theorem test_decode_fixedString : decode regMin (.kind (.fixedString 4)) [0x41, 0x00, 0xFF, 0x20, 0x01]
    = .ok (.kindFixedString [0x41, 0x00, 0xFF, 0x20], [0x01]) := by decide
theorem test_decode_coordinates : decode regMin (.kind .coordinates) [0x07, 0x18, 0xC4, 0x52, 0x03, 0xC0, 0xFF, 0x3D, 0x02]
    = .ok (.kindCoordinates 0x07 0x18 0xC4 0x52 0x03 0xC0 0xFF 0x3D 0x02, []) := by decide
theorem test_decode_ackOk : decode regMin .ack [0x02, 0xED, 0x4E] = .ok (.ackOk 0x4EED, []) := by decide
theorem test_decode_ackReject : decode regMin .ackReject [0x02, 0x3F, 0x00] = .ok (.ackReject, []) := by decide
theorem test_decode_rejects : decode regMin .frameHdr [0x01, 0x00] = .error .tooShort
    ∧ decode regMin .frameHdr [0x01, 0x00, 0x00, 0x20] = .error .incompleteFrame ∧ decode regMin .tag8 [] = .error .tooShort
    ∧ decode regMin .tag16 [0x01] = .error .tooShort ∧ decode regMin .ack [0x03, 0x00, 0x00] = .error .notAnAck
    ∧ decode regMin (.kind .uint16) [0x01] = .error .tooShort := by decide
theorem test_table_words : decodeTableWord 8 0x01 = some (.telemetry false [] 0)
    ∧ decodeTableWord 8 0x15 = some (.keepalive false [] 0) ∧ decodeTableWord 8 0x07 = some (.extension 0x07 false [] 0)
    ∧ decodeTableWord 8 0xFE = some (.tagEscape [0, 0] []) ∧ decodeTableWord 16 0x0001 = some (.xtagModbus [0, 0, 0, 0])
    ∧ decodeTableWord 8 0x02 = some (.ackOk 0) ∧ decodeTableWord 24 0x003F02 = some .ackReject := by decide

/-! ## One step each -/

theorem test_crc_check_value : crc16 [0x31, 0x32, 0x33, 0x34, 0x35, 0x36, 0x37, 0x38, 0x39] = 0x4B37 := by decide +kernel
theorem test_crc_vectors : crc16 [0xFF] = 0x00FF ∧ crc16 [0x01, 0x00, 0x80] = 0xA021 ∧ crc16 [0x01, 0x02, 0x03, 0x04] = 0x2BA1 := by
  decide +kernel
theorem test_crcValidate : (next? (exec (.crcValidate [0x15, 0x00, 0x00] 0x0460) State.reset)).map (·.ret) = some ⟨.valid true, []⟩ := by
  decide +kernel
theorem test_extract_V25 : tryExtract 32767 [0x01, 0x00, 0x80, 0x21, 0xA0] = .complete ⟨0x01, 0, true, [], 0xA021⟩ 5 := by decide +kernel
theorem test_extract_V26 : tryExtract 32767 [0x01, 0x00, 0x00, 0x21, 0x00] = .badChecksum 0x0021 0x0020 5 := by decide +kernel
theorem test_extract_V31_V32_V33 : tryExtract 1024 [0x01, 0x01, 0x04] = .badLength 1025 1
    ∧ tryExtract 1024 [0x01, 0x00, 0x04] = .incomplete ∧ tryExtract 1024 [0x01, 0x01, 0x84] = .badLength 1025 1 := by decide +kernel
theorem test_classify_V37 : ([0x00, 0x02, 0x07, 0x10, 0xFE, 0xFF].map classify).all (· == .extension) = true := by decide
theorem test_ack_V60_V63 : buildAck 0x4EED = [0x02, 0xED, 0x4E] ∧ ackBytes .reject = [0x02, 0x3F, 0x00] := by decide
theorem test_K2_K4_K6 : decodeValue .int8 [0xE7] = .int (-25) ∧ decodeValue .int16 [0x38, 0xFF] = .int (-200)
    ∧ decodeValue .int32 [0x00, 0x34, 0xFB, 0xFD] = .int (-33868800) := by decide
theorem test_K5_K9 : decodeValue .uint32 [0x78, 0x56, 0x34, 0x12] = .int 305419896
    ∧ decodeValue .dateTimeSeconds [0x00, 0xF1, 0x53, 0x65] = .int 1700000000 := by decide
theorem test_K11 : (next? (exec (.kindCoordinates 0x27 0x00 0x34 0xFB 0xFD 0xAC 0xBA 0xFC 0xF6) State.reset)).map (·.ret.value)
    = some (.value (.coordinates 7 2 ⟨-33868800, 1000000⟩ ⟨-151209300, 1000000⟩)) := by decide +kernel
theorem test_K14 : decodeValue .speedDirection [0x5D, 0x02, 0x08, 0x07] = .speedDirection ⟨605, 10⟩ ⟨1800, 10⟩ := by decide
theorem test_K16_K17 : decodeValue .ioBitfield [0x01, 0x80]
      = .bits 32769 [true, false, false, false, false, false, false, false, false, false, false, false, false, false, false, true]
    ∧ decodeValue .modbusScaled [0x40, 0xE2, 0x01, 0x00] = .scaled ⟨123456, 100⟩ := by decide +kernel

/-- V41 by its row: the IMEI tag of a session. -/
theorem test_tagImei : (next? (exec (.tagImei imei1) (decoding 16))).map
    (fun t => (t.work.off, t.ctxs.map (·.lastIMEI))) = some (16, [some imei1]) := by decide +kernel
/-- V49 by its row. -/
theorem test_tagImei_cut : (next? (exec (.tagImei (imei1.take 10)) (decoding 11))).map
    (fun t => (t.work.off, t.ret.events, t.ctxs.map (·.lastIMEI)))
      = some (11, [.protocolError (.truncatedTag .main (some (.main 0x03)) 0 15 10)], [none]) := by decide +kernel
/-- V51 by its row: the skip stops at the segment's end. -/
theorem test_tagUnknown : (next? (exec (.tagUnknown 0x99 [0x01, 0x02]) (decoding 3))).map (fun t => (t.work.off, t.ret.events))
    = some (3, [.protocolError (.unknownTag (.main 0x99) 0)]) := by decide +kernel
theorem test_tagRecstart : (next? (exec (.tagRecstart [0x05, 0x00]) (decoding 3))).map (fun t => (t.work.off, t.work.entries))
    = some (3, [⟨.main 0x10, .uint16, [0x05, 0x00], .int 5⟩]) := by decide +kernel
theorem test_tagKnown_cut : (next? (exec (.tagKnown 0x35 []) (decoding 1))).map (fun t => (t.work.off, t.ret.events))
    = some (1, [.protocolError (.truncatedTag .main (some (.main 0x35)) 0 1 0)]) := by decide +kernel
/-- V45 by its row. -/
theorem test_tagEscape_cut : (next? (exec (.tagEscape [0x0A, 0x00] [0x01, 0x00, 0x40, 0xE2, 0x01, 0x00]) (decoding 9))).map
    (fun t => (t.work.off, t.ret.events, t.work.entries)) = some (9,
      [.protocolError (.truncatedTag .extBlock (some (.main 0xFE)) 0 10 6)],
      [⟨.ext 1, .modbusScaled, [0x40, 0xE2, 0x01, 0x00], .scaled ⟨123456, 100⟩⟩]) := by decide +kernel
/-- V46, first item: a byte left over in the block. -/
theorem test_tagEscape_leftover : (next? (exec (.tagEscape [0x07, 0x00] [0x01, 0x00, 0x40, 0xE2, 0x01, 0x00, 0x55]) (decoding 26))).map
    (fun t => (t.work.off, t.ret.events)) = some (10, [.protocolError (.truncatedTag .extTagId none 9 2 1)]) := by decide +kernel
theorem test_xtagModbus : (next? (exec (.xtagModbus [0x40, 0xE2, 0x01, 0x00]) (decoding 6))).map (fun t => (t.work.p, t.work.entries))
    = some (6, [⟨.ext 1, .modbusScaled, [0x40, 0xE2, 0x01, 0x00], .scaled ⟨123456, 100⟩⟩]) := by decide +kernel
theorem test_xtagKnown_cut : (next? (exec (.xtagKnown 5 [0x40]) (decoding 3))).map (fun t => (t.work.p, t.ret.events))
    = some (3, [.protocolError (.truncatedTag .ext (some (.ext 5)) 0 2 1)]) := by decide +kernel
theorem test_xtagUnknown : (next? (exec (.xtagUnknown 6 [0x40]) (decoding 3))).map (fun t => (t.work.p, t.ret.events))
    = some (3, [.protocolError (.unknownTag (.ext 6) 0)]) := by decide +kernel
/-- V40. -/
theorem test_decodeRecord_V40 : (next? (exec (.decodeRecord 7 ([0x99, 0xAA, 0xBB, 0xCC, 0xDD, 0x03] ++ imei1) 0 21)
      (block [sess 7 .awaitingData []]))).map (fun t => (t.ret.events, t.ret.value, t.ctxs.map (·.lastIMEI)))
    = some ([.protocolError (.unknownTag (.main 0x99) 0)], .entries [⟨.main 0x03, .fixedString 15, imei1, .text imei1⟩] 21, [some imei1]) := by
  decide +kernel
/-- V43, the record with the length as the source prints it. -/
theorem test_decodeRecord_V43 : (decodeRecord regMin [0xFE, 0x04, 0x00, 0x01, 0x00, 0x40, 0xE2, 0x01, 0x00] 0 9 none).out
    = [.protocolError (.truncatedTag .ext (some (.ext 1)) 3 4 2), .protocolError (.unknownTag (.main 0x01) 7)] := by decide +kernel
/-- V51c. -/
theorem test_decodeExt_V51c : (decodeExt regMin [0x08, 0x00, 0x03, 0x00, 0x01, 0x02, 0x03, 0x04, 0xFF] 1 10 0).1.out
    = [.protocolError (.truncatedTag .extBlock (some (.main 0xFE)) 0 8 7), .protocolError (.unknownTag (.ext 3) 3),
       .protocolError (.truncatedTag .extTagId none 9 2 1)] := by decide +kernel
/-- The body of V52 (R231): its segments. -/
theorem test_split_R231 : split ([0xAA, 0xAA, 0x10, 0x00, 0x00, 0x00, 0x00, 0x03] ++ imei1
      ++ [0x10, 0x01, 0x00, 0x00, 0x00, 0x10, 0x10, 0x02, 0x00, 0x00, 0x00, 0x00, 0x00]) 36
    = ([(2, 23), (23, 28), (28, 29), (29, 36)], 2) := by decide +kernel
theorem test_split_short : split (List.replicate 31 0x10) 31 = ([(0, 31)], 0) := by decide +kernel

/-- P1 step a. -/
theorem test_open : (next? (exec (.openSession 1 5) State.reset)).map (·.ctxs)
    = some [⟨.awaitingData, 1, [], none, 5, 5, 1⟩] := by decide +kernel
/-- P1 step c: the first byte only. -/
theorem test_feed : (next? (exec (.feed 7 [0x01] 9) (block [sess 7 .awaitingData []]))).map (·.ctxs)
    = some [⟨.idle, 7, [0x01], none, 0, 9, 1⟩] := by decide +kernel
theorem test_feed_busy : refusal? (exec (.feed 7 [0x01] 9) (block [sess 7 .idle []])) = some .notAwaitingData := by decide +kernel
/-- P1 step b, its frame step. -/
theorem test_telemetry : (next? (step (block [sess 7 .hasCompleteFrames frameF]))).map (·.log.map Logged.event)
    = some [.frame .telemetry 0x01 false (0x03 :: imei1),
      .record (some imei1) [⟨.main 0x03, .fixedString 15, imei1, .text imei1⟩], .ackRequired [0x02, 0xED, 0x4E]] := by decide +kernel
/-- P1 step d. -/
theorem test_telemetry_bad : (next? (step (block [sess 7 .hasCompleteFrames (frameF.dropLast ++ [0x4F])]))).map (·.log.map Logged.event)
    = some [.protocolError (.checksumMismatch 0x4FED 0x4EED 21), .ackRequired [0x02, 0x3F, 0x00]] := by decide +kernel
/-- P2 step b, its first frame step. -/
theorem test_keepalive : (next? (step (block [sess 7 .hasCompleteFrames frameK]))).map (·.log)
    = some [⟨1, 7, .frame .ignorable 0x15 false []⟩, ⟨1, 7, .ackRequired [0x02, 0x60, 0x04]⟩] := by decide +kernel
/-- P2 step b, its third frame step. -/
theorem test_extension : (next? (step (block [sess 7 .hasCompleteFrames [0x07, 0x02, 0x00, 0xAA, 0xBB, 0xAE, 0xAB]]))).map (·.log)
    = some [⟨1, 7, .frame .extension 0x07 false [0xAA, 0xBB]⟩, ⟨1, 7, .ackRequired [0x02, 0xAE, 0xAB]⟩] := by decide +kernel
theorem test_frameStep_length :
    let s := { block [sess 7 .hasCompleteFrames [0xAA, 0xBB, 0x01]] with cfg := { nSess := 1, maxBodyLen := 255 } }
    (next? (step s)).map (fun t => (t.log, t.ctxs.map (·.buf)))
      = some ([⟨1, 7, .protocolError (.malformedLength 443 0xAA)⟩], [[0xBB, 0x01]]) := by decide +kernel
theorem test_close : (next? (exec (.closeSession 7 .timeout) (block [sess 7 .hasCompleteFrames frameK]))).map
    (fun t => (t.log, t.ctxs.map (fun c => (c.phase, c.buf)))) = some ([⟨1, 7, .connectionClosed .timeout⟩], [(.closed, [])]) := by
  decide +kernel
theorem test_stall :
    let s := { block [sess 7 .idle [0x01, 0x64]] with cfg := { nSess := 1, stallLimit := some 1 } }
    (next? (step s)).map (fun t => (t.log, t.ctxs.map (·.phase))) = some ([⟨1, 7, .connectionClosed .stallLimit⟩], [.closed]) := by
  decide +kernel
theorem test_registerTag : (next? (exec (.registerTag (.main 0x35) .uint8 ['H']) State.reset)).map (·.reg.main)
    = some [⟨3, .fixedString 15, imeiLabel⟩, ⟨0x35, .uint8, ['H']⟩] := by decide +kernel
theorem test_registerTag_open : refusal? (exec (.registerTag (.main 0x35) .uint8 []) (block [sess 7 .idle []])) = some .sessionOpen := by
  decide +kernel
theorem test_reset : (next? (exec .resetBlock (block [sess 7 .hasCompleteFrames frameK]))).map
    (fun t => (t.log, t.ctxs.map (fun c => (c.phase, c.buf)))) = some ([], [(.closed, [])]) := by decide +kernel
theorem test_ackOk : (next? (exec (.ackOk 0x4EED) (decoding 0))).map (·.tx 1) = some [0x02, 0xED, 0x4E] := by decide +kernel
theorem test_ackReject : (next? (exec .ackReject (decoding 0))).map (·.tx 1) = some [0x02, 0x3F, 0x00] := by decide +kernel
theorem test_fetch_word_acked : (next? (step (State.reset.withFetchWord 24 0x003F02))).map (·.log)
    = some [⟨1, 0, .ackRequired [0x02, 0x3F, 0x00]⟩] := by decide +kernel
/-- A frame of zeros has a wrong checksum (V6): the first step after reset rejects it. -/
theorem test_fetch_word_frame : (next? (step (State.reset.withFetchWord 8 0x01))).map (·.log)
    = some [⟨1, 0, .protocolError (.checksumMismatch 0x0000 0x0020 5)⟩, ⟨1, 0, .ackRequired [0x02, 0x3F, 0x00]⟩] := by decide +kernel

/-! ## Witnesses: for each statement with hypotheses, what meets them all -/

theorem witness_EncodeThenDecodeGivesItem : (Instr.tagImei imei1).wellFormed {} regMin = true
    ∧ formatOf (Instr.tagImei imei1) = some .tag8 := by decide
/-- The longest body a length field can declare. -/
def fullBody : List Byte := List.replicate 32767 0
theorem fullBody_length : fullBody.length = 32767 := List.length_replicate
theorem witness_EncodeThenDecode_longest : (Instr.telemetry true fullBody 0).wellFormed {} regMin = true := by
  simp [Instr.wellFormed, bodyFits, fullBody_length]
theorem witness_DecodeThenEncodeGivesBytes : decode regMin .tag8 [0xFE, 0x01] = .ok (.tagEscape [0x01] [], []) := by decide

/-- A block whose host has an operation waiting. -/
def hostTurn (o : HostOp) : State := { block [sess 7 .awaitingData [], Session.atReset] with queue := [o] }

/-- A block with this on its bench. -/
def benchTurn (b : Bench) : State := { block [sess 7 .awaitingData []] with bench := [b] }

/-- A block whose session 1 is due. -/
def sessionTurn (phase : Phase) (buf : List Byte) : State := block [Session.atReset, sess 7 phase buf]

theorem witness_StepRunsWhatItFetches_operation : (hostTurn .resetBlock).pick = some .host
    ∧ (benchTurn (.op (.crcCompute []))).pick = some .bench := by decide
theorem witness_StepRunsWhatItFetches_item : (benchTurn (.item .ack [0x02, 0xED, 0x4E])).pick = some .bench
    ∧ decode regMin .ack [0x02, 0xED, 0x4E] = .ok (.ackOk 0x4EED, []) ∧ decode regMin .ack [0x02] = .error .tooShort := by decide
theorem test_bench_undecodable : refusal? (step (benchTurn (.item .ack [0x02]))) = some (.undecodable .tooShort) := by decide +kernel
theorem witness_StepRunsWhatItFetches_frame : (sessionTurn .hasCompleteFrames frameK).pick = some (.session 1)
    ∧ decode regMin .frameHdr frameK = .ok (.keepalive false [] 0x0460, []) := by decide
theorem witness_StepRunsWhatItFetches_frameStep : (sessionTurn .hasCompleteFrames [0xAA, 0xBB, 0x81]).pick = some (.session 1)
    ∧ decode regMin .frameHdr [0xAA, 0xBB, 0x81] = .error .incompleteFrame := by decide
theorem witness_StepRunsWhatItFetches_idle : (sessionTurn .idle [0x01]).pick = some (.session 1) := by decide
theorem witness_StepRunsWhatItFetches_wait : State.reset.pick = none := by decide

theorem open_inv : (hostTurn (.openSession 8 1)).Inv := inv_of_checks (by decide +kernel) (by decide)
theorem due_inv : (sessionTurn .hasCompleteFrames frameK).Inv := inv_of_checks (by decide +kernel) (by decide)
theorem idle_inv : (sessionTurn .idle [0x01]).Inv := inv_of_checks (by decide +kernel) (by decide)
theorem witness_StepKeepsInvariant : (hostTurn (.openSession 8 1)).Inv ∧ ∃ t, step (hostTurn (.openSession 8 1)) = .next t :=
  ⟨open_inv, exists_next (by decide +kernel)⟩
theorem witness_OpenSessionsFreezeRegistry : (hostTurn (.openSession 8 1)).ctxs.any Session.isOpen = true
    ∧ ∃ t, step (hostTurn (.openSession 8 1)) = .next t := ⟨by decide, exists_next (by decide +kernel)⟩
theorem witness_OnlyRegisterTagWritesRegistry : ∃ t, exec (.registerTag (.main 0x35) .uint8 ['H']) State.reset = .next t
    ∧ t.reg ≠ State.reset.reg := ⟨_, rfl, by decide⟩
theorem witness_StepAppendsEventsOfOneConnection : ∃ t, step (sessionTurn .hasCompleteFrames frameK) = .next t :=
  exists_next (by decide +kernel)
theorem witness_SessionTurnTouchesOnlyItsContext_frame : (sessionTurn .hasCompleteFrames frameK).Inv
    ∧ (sessionTurn .hasCompleteFrames frameK).pick = some (.session 1)
    ∧ (sessionTurn .hasCompleteFrames frameK).ctxs[1]? = some (sess 7 .hasCompleteFrames frameK)
    ∧ ∃ t, step (sessionTurn .hasCompleteFrames frameK) = .next t :=
  ⟨due_inv, by decide, by decide, exists_next (by decide +kernel)⟩
/-- Clause by clause: a FEED, a CLOSE, a RESET, and the session's own turn, which captures an IMEI. -/
theorem witness_OnlyItsTurnFeedAndCloseChangeASession :
    (∀ o ∈ [HostOp.feed 7 [0x01] 9, .closeSession 7 .error, .resetBlock], (hostTurn o).bench = [] ∧ (hostTurn o).pick = some .host)
    ∧ (hostTurn (.feed 7 [0x01] 9)).Inv ∧ (hostTurn (.closeSession 7 .error)).Inv ∧ (hostTurn .resetBlock).Inv
    ∧ (∃ t, step (hostTurn (.feed 7 [0x01] 9)) = .next t) ∧ (∃ t, step (hostTurn (.closeSession 7 .error)) = .next t)
    ∧ (∃ t, step (hostTurn .resetBlock) = .next t)
    ∧ (sessionTurn .hasCompleteFrames frameF).Inv ∧ (sessionTurn .hasCompleteFrames frameF).pick = some (.session 1)
    ∧ (next? (step (sessionTurn .hasCompleteFrames frameF))).map (fun t => t.ctxs.map (fun c => (c.phase, c.lastIMEI)))
      = some [(.closed, none), (.idle, some imei1)] :=
  ⟨by decide, inv_of_checks (by decide +kernel) (by decide), inv_of_checks (by decide +kernel) (by decide),
    inv_of_checks (by decide +kernel) (by decide), exists_next (by decide +kernel), exists_next (by decide +kernel),
    exists_next (by decide +kernel), inv_of_checks (by decide +kernel) (by decide), by decide, by decide +kernel⟩
theorem witness_SessionTurnTouchesOnlyItsContext_idle : (sessionTurn .idle [0x01]).Inv
    ∧ (sessionTurn .idle [0x01]).pick = some (.session 1) ∧ ∃ t, step (sessionTurn .idle [0x01]) = .next t :=
  ⟨idle_inv, by decide, exists_next (by decide +kernel)⟩
/-- Two blocks with the same session 1 and another session 0. -/
theorem witness_FrameStepDependsOnItsSessionOnly :
    let s₁ := sessionTurn .hasCompleteFrames frameK
    let s₂ := block [{ sess 8 .awaitingData [0x01] with serial := 2 }, sess 7 .hasCompleteFrames frameK]
    s₁.Inv ∧ s₂.Inv ∧ s₁.pick = some (.session 1) ∧ s₂.pick = some (.session 1) ∧ s₁.cfg = s₂.cfg ∧ s₁.reg = s₂.reg
      ∧ s₁.ctxs[1]? = s₂.ctxs[1]? ∧ s₁.ctxs ≠ s₂.ctxs ∧ (∃ t, step s₁ = .next t) ∧ ∃ t, step s₂ = .next t :=
  ⟨due_inv, inv_of_checks (by decide +kernel) (by decide), by decide, by decide, by decide, by decide, by decide, by decide,
    exists_next (by decide +kernel), exists_next (by decide +kernel)⟩

theorem witness_FlippedFlagBreaksChecksum : tryExtract 32767 frameK = .complete ⟨0x15, 0, false, [], 0x0460⟩ 5 ∧ (0x14 : Byte) ≠ 0x15 := by
  decide +kernel
/-- Two bytes; a length one above the limit; the limit itself, one byte short, complete, and with a wrong checksum. -/
theorem witness_TryExtractResults : u16le [0x15, 0x00] 1 = 0 ∧ u16le [0x07, 0x03, 0x80] 1 % 32768 = 3
    ∧ u16le [0x07, 0x02, 0x00, 0xAA, 0xBB, 0xAE] 1 % 32768 = 2
    ∧ crc16 [0x07, 0x02, 0x00, 0xAA, 0xBB] = halfAt [0x07, 0x02, 0x00, 0xAA, 0xBB, 0xAE, 0xAB] 5
    ∧ crc16 [0x07, 0x02, 0x00, 0xAA, 0xBB] ≠ halfAt [0x07, 0x02, 0x00, 0xAA, 0xBB, 0xAE, 0xAC] 5 := by decide +kernel
theorem witness_TryExtractWritesRegistersAndFlags : ([0x07, 0x02] : List Byte).length < 3
    ∧ 3 ≤ ([0x07, 0x02, 0x00] : List Byte).length ∧ ([0x07, 0x02, 0x00] : List Byte).length < u16le [0x07, 0x02, 0x00] 1 % 32768 + 5
    ∧ u16le [0x07, 0x02, 0x00, 0xAA, 0xBB, 0xAE, 0xAB] 1 % 32768 + 5 ≤ ([0x07, 0x02, 0x00, 0xAA, 0xBB, 0xAE, 0xAB] : List Byte).length := by
  decide
theorem witness_ExtractionReadsAPrefixOnly : ([0x15, 0x00, 0x00, 0x60, 0x04, 0x99] : List Byte).take 5 = frameK.take 5
    ∧ 5 ≤ frameK.length ∧ tryExtract 32767 frameK ≠ .incomplete ∧ tryExtract 32767 (frameK.take 4) = .incomplete
    ∧ tryExtract 32767 (frameK.take 2) = .incomplete := by decide +kernel
theorem witness_WrittenFrameIsExtracted : ([] : List Byte).length ≤ 0 ∧ ([0xAA, 0xBB] : List Byte).length ≤ 2
    ∧ (0xABAE : Half) = crc16 (frameHead 0x07 false [0xAA, 0xBB]) ∧ (0xABAF : Half) ≠ crc16 (frameHead 0x07 false [0xAA, 0xBB]) := by
  decide +kernel
theorem witness_WrittenFrameIsExtracted_longest : fullBody.length ≤ 32767 := by rw [fullBody_length]
theorem witness_ClassifyByHeaderByte : classify 0x01 = .telemetry ∧ classify 0x15 = .ignorable ∧ classify 0x14 = .extension := by decide

theorem witness_KnownTagRound : regTest.mainDef 0x10 = some ⟨16, .uint16, ['n', 'o']⟩ ∧ (0x10 : Byte) ≠ 0x03
    ∧ ([1, 2] : List Byte).length = (Kind.uint16).width ∧ ([1] : List Byte).length < (Kind.uint16).width := by decide
theorem witness_UnknownTagRound : regTest.mainDef 0x99 = none ∧ ([1, 2, 3, 4] : List Byte).length ≤ 4 ∧ ([] : List Byte).length ≤ 4 := by
  decide
theorem witness_ImeiTagRound : (decoding 16).reg.legal = true ∧ (decoding 16).curSession = some (sess 7 .awaitingData [])
    ∧ imei1.length = 15 ∧ (imei1.drop 1).length < 15 ∧ State.reset.curSession = none := by decide
theorem witness_RecordStartTagRound : regTest.mainDef 0x10 = some ⟨16, .uint16, ['n', 'o']⟩ ∧ regMin.mainDef 0x10 = none
    ∧ ([1, 2] : List Byte).length = (Kind.uint16).width ∧ ([1] : List Byte).length < (Kind.uint16).width := by decide
theorem witness_EscapeTagRound : u16le [0x03, 0x00] 0 = 3 ∧ ([1, 2, 3] : List Byte).length = u16le [0x03, 0x00] 0
    ∧ ([1, 2] : List Byte).length < u16le [0x03, 0x00] 0 ∧ ([0x03] : List Byte).length < 2 := by decide
theorem witness_ExtendedTagRounds : regTest.extDef 1 = some ⟨1, .modbusScaled, modbusLabel⟩
    ∧ regTest.extDef 5 = some ⟨5, .uint16, ['x']⟩ ∧ regTest.extDef 6 = none
    ∧ ([1, 2] : List Byte).length = (Kind.uint16).width ∧ ([1] : List Byte).length < (Kind.uint16).width
    ∧ ([1, 2, 3, 4] : List Byte).length ≤ 4 := by decide
theorem witness_DecodeRecordCompletes : (block [sess 7 .awaitingData []]).findCtx openPhase 7 = some (0, sess 7 .awaitingData [])
    ∧ (block [sess 7 .awaitingData []]).findCtx openPhase 8 = none
    ∧ 0 ≤ ([1, 2] : List Byte).length ∧ ([1, 2] : List Byte).length < 3 ∧ 32767 < longBody.length := by
  rw [longBody_length]; decide
theorem witness_DecodeExtCompletes : ([0xFE, 0x00, 0x00] : List Byte).length ≤ 32767 ∧ 1 ≤ 3 ∧ 3 ≤ ([0xFE, 0x00, 0x00] : List Byte).length
    ∧ ([0xFE, 0x00, 0x00] : List Byte).length < 4 ∧ 32767 < longBody.length := by
  rw [longBody_length]; decide
theorem witness_RecordWalkStaysInsideSegment : 1 ≤ ([0x99, 0x99] : List Byte).length
    ∧ (decodeRecord regMin [0x99, 0x99] 1 2 none).out ≠ [] := by decide +kernel
theorem witness_RecordEntriesFollowRegistry : (decodeRecord regTest [0x35, 0x2A] 0 2 none).entries ≠ [] := by decide +kernel
theorem witness_WrittenRecordDecodesToItsEntries :
    (∀ a ∈ [((0x03 : Byte), imei1)], a.1 ≠ 0xFE ∧ ∃ d, regTest.mainDef a.1 = some d ∧ a.2.length = d.kind.width)
    ∧ (∀ a ∈ [((5 : Half), ([1, 2] : List Byte))], ∃ d, regTest.extDef a.1 = some d ∧ a.2.length = d.kind.width) := by
  constructor
  · intro a ha
    simp only [List.mem_singleton] at ha
    subst ha
    exact ⟨by decide, _, rfl, by decide⟩
  · intro a ha
    simp only [List.mem_singleton] at ha
    subst ha
    exact ⟨_, rfl, by decide⟩
theorem witness_RecordIsWalkOfTagRows :
    let s := { decoding 2 with work := { (decoding 2).work with body := [0x35, 0x2A] } }
    s.curSession = some (sess 7 .awaitingData []) ∧ s.work.body.length ≤ 32767 ∧ s.work.off.toNat ≤ s.work.stop.toNat
      ∧ s.work.stop.toNat ≤ s.work.body.length ∧ s.work.entries = [] := by decide
theorem witness_SegmentsStartAtMarkers : (List.replicate 31 (0x10 : Byte)).length < 32 ∧ 32 ≤ (List.replicate 32 (0x10 : Byte)).length
    ∧ fullBody.length ≤ 32767 ∧ 32767 < longBody.length := by rw [longBody_length, fullBody_length]; decide
theorem witness_AcknowledgementsReachTheWire : (decoding 0).curSession = some (sess 7 .awaitingData [])
    ∧ State.reset.curSession = none := by decide

/-- A block with one session whose buffer holds `buf`, its frame step due, and a body limit. -/
def due (max : Nat) (buf : List Byte) : State :=
  { block [sess 7 .hasCompleteFrames buf] with cfg := { nSess := 1, maxBodyLen := max } }

theorem witness_TelemetryFrameCompletes : (due 0 [0x01, 0x00, 0x80, 0x21, 0xA0]).ctxs[0]?
      = some (sess 7 .hasCompleteFrames (frameBytes 0x01 true [] (crc16 (frameHead 0x01 true [])) ++ []))
    ∧ ([] : List Byte).length ≤ (due 0 []).cfg.maxBodyLen ∧ (due 0 []).cfg.maxBodyLen ≤ 32767 := by decide +kernel
theorem witness_OtherFramesComplete : (due 2 [0x07, 0x02, 0x00, 0xAA, 0xBB, 0xAE, 0xAB]).ctxs[0]?
      = some (sess 7 .hasCompleteFrames (frameBytes 0x07 false [0xAA, 0xBB] (crc16 (frameHead 0x07 false [0xAA, 0xBB])) ++ []))
    ∧ (due 2 frameK).ctxs[0]? = some (sess 7 .hasCompleteFrames (frameBytes 0x15 false [] (crc16 (frameHead 0x15 false [])) ++ []))
    ∧ (0x07 : Byte) ≠ 0x01 ∧ (0x15 : Byte) ≠ 0x01 := by decide +kernel
theorem witness_WrongChecksumIsRejected : (0x0021 : Half) ≠ crc16 (frameHead 0x01 false [])
    ∧ (due 0 [0x01, 0x00, 0x00, 0x21, 0x00]).ctxs[0]?
      = some (sess 7 .hasCompleteFrames (frameBytes 0x01 false [] 0x0021 ++ [])) := by decide +kernel
theorem witness_LengthOutOfLimitsDropsOneByte :
    (due 1024 [0x01, 0x01, 0x84]).findCtx duePhase 7 = some (0, sess 7 .hasCompleteFrames [0x01, 0x01, 0x84])
    ∧ (due 1024 []).cfg.maxBodyLen < ((0x84 : Byte) ++ (0x01 : Byte)).toNat % 32768 := by decide
theorem witness_FrameRowsOnlyRunFromTheFront : (due 1 [0x07, 0x02, 0x00, 0xAA, 0xBB, 0xAE, 0xAB]).ctxs[0]?
      = some (sess 7 .hasCompleteFrames (frameBytes 0x07 false [0xAA, 0xBB] 0xABAE ++ []))
    ∧ (due 1 []).cfg.maxBodyLen < ([0xAA, 0xBB] : List Byte).length ∧ ¬ frameBytes 0x07 false [0xAA, 0xBB] 0xABAE <+: frameK
    ∧ (∀ c, State.reset.ctxs[State.reset.cur]? = some c → c.phase ≠ .hasCompleteFrames) := by
  refine ⟨by decide, by decide, by decide, ?_⟩
  intro c hc
  cases hc
  decide
theorem witness_FrameStepCompletes : (due 0 frameK).findCtx duePhase 7 = some (0, sess 7 .hasCompleteFrames frameK)
    ∧ tryExtract 0 frameK ≠ .incomplete ∧ tryExtract 0 [0x15] = .incomplete ∧ State.reset.findCtx duePhase 7 = none := by
  decide +kernel
theorem witness_FrameStepConsumes : ((sess 7 .hasCompleteFrames frameK).frameStep {} regMin).isSome = true
    ∧ ((sess 7 .hasCompleteFrames [0x01, 0x00, 0x00, 0x21, 0x00]).frameStep {} regMin).isSome = true
    ∧ ((sess 7 .hasCompleteFrames [0x01, 0x01, 0x04]).frameStep { maxBodyLen := 1024 } regMin).isSome = true := by decide +kernel
theorem witness_OneAcknowledgementLast : ((sess 7 .hasCompleteFrames frameF).frameStep {} regMin).isSome = true := by decide +kernel

theorem witness_OpenCompletes : (7 : Nat) < 2 ^ State.reset.cfg.cidW ∧ (0 : Nat) < 2 ^ State.reset.cfg.tsW
    ∧ (∀ c ∈ State.reset.ctxs, c.phase ≠ .closed → c.cid ≠ 7) ∧ (∃ c ∈ State.reset.ctxs, c.phase = .closed)
    ∧ (∃ c ∈ (block [sess 7 .idle []]).ctxs, c.phase ≠ .closed ∧ c.cid = 7)
    ∧ (∀ c ∈ (block [sess 7 .idle []]).ctxs, c.phase ≠ .closed ∧ c.cid ≠ 8)
    ∧ (∀ e ∈ State.reset.log, e.serial ≤ State.reset.opened) ∧ 2 ^ State.reset.cfg.cidW ≤ 4294967296
    ∧ 2 ^ State.reset.cfg.tsW ≤ 18446744073709551616 := by decide
theorem witness_FeedCompletes : (18446744073709551615 : Nat) < 2 ^ State.reset.cfg.tsW
    ∧ (block [sess 7 .awaitingData []]).findCtx waitingPhase 7 = some (0, sess 7 .awaitingData [])
    ∧ (∀ c ∈ (block [sess 7 .idle []]).ctxs, c.phase = .awaitingData → c.cid ≠ 7)
    ∧ 2 ^ State.reset.cfg.tsW ≤ 18446744073709551616 := by decide
theorem witness_CloseCompletes : (due 0 frameK).findCtx openPhase 7 = some (0, sess 7 .hasCompleteFrames frameK)
    ∧ (∀ c ∈ State.reset.ctxs, c.phase ≠ .closed → c.cid ≠ 0) := by decide
theorem witness_EndOfFeedTestsTheStallLimit : (sessionTurn .idle [0x01]).pick = some (.session 1)
    ∧ (sessionTurn .idle [0x01]).ctxs[1]? = some (sess 7 .idle [0x01])
    ∧ ({ stallLimit := some 1 } : Config).stallLimit = some 1 ∧ ([0x01] : List Byte).length ≤ 1 ∧ 0 < ([0x01] : List Byte).length := by
  decide
theorem witness_RegisterTagCompletes : (∀ c ∈ State.reset.ctxs, c.phase = .closed)
    ∧ (regMin.register (.main 0x35) .uint8 []).legal = true ∧ (regMin.register (.main 0xFE) .uint8 []).legal = false
    ∧ (∃ c ∈ (block [sess 7 .idle []]).ctxs, c.phase ≠ .closed) := by decide
theorem witness_ImeiOnlyAsItselfAndEscapeNeverRegistrable : Kind.uint8 ≠ .fixedString 15 ∧ (['i', 'm', 'e', 'i'] : Label) ≠ imeiLabel
    ∧ ∃ t, exec (.registerTag (.main 0x03) (.fixedString 15) imeiLabel) State.reset = .next t := ⟨by decide, by decide, _, rfl⟩
theorem witness_ExtractionLoopEndsInBounds : ({} : Config).legal = true := by decide
theorem witness_StepsOfAFeedMakeTheTransaction :
    let s := hostTurn (.feed 7 frameK 9)
    s.sched = [] ∧ s.queue = [.feed 7 frameK 9] ∧ (∀ d ∈ s.ctxs, d.phase ≠ .hasCompleteFrames ∧ d.phase ≠ .idle)
      ∧ s.findCtx waitingPhase 7 = some (0, sess 7 .awaitingData []) ∧ frameK ≠ [] ∧ 9 < 2 ^ s.cfg.tsW := by decide

end Sys2Proof.Tests
end

section
/-! SUPPORT. What an operation can do to the block, said once: it moves one open session, or OPENs one, or writes the registry, or
resets, or leaves contexts and log alone. And what a step hands to the operation it runs. -/

namespace Sys2Proof.Machine
open Sys2Proof

/-- What one operation can do to an open context, and the events it logs for that context: the result context and the events, as
the operation computes them. -/
inductive SessionMove (cfg : Config) (reg : Registry) (c : Session) : Session → List Event → Prop
  /-- An acknowledgement handed over (R235, R236). -/
  | acknowledge (bytes : List Byte) : SessionMove cfg reg c c [.ackRequired bytes]
  /-- One round of R180. -/
  | tagRound (t : Byte) (value : List Byte) (stop off : Nat) (entries : List Entry) :
      SessionMove cfg reg c
        { c with lastIMEI := (mainItem reg t value stop ⟨off, entries, c.lastIMEI, []⟩).imei } []
  /-- DECODE_RECORD (R170). -/
  | decodeRecord (body : List Byte) (start stop : Nat) :
      SessionMove cfg reg c { c with lastIMEI := (decodeRecord reg body start stop c.lastIMEI).imei } []
  /-- A frame step, where it is due (R256). -/
  | frameStep (c' : Session) (evs : List Event) (due : c.phase = .hasCompleteFrames)
      (answer : c.frameStep cfg reg = some (c', evs)) : SessionMove cfg reg c c' evs
  /-- FEED of a non-empty chunk (R252). -/
  | feed (chunk : List Byte) (t : Nat) (waiting : c.phase = .awaitingData) (nonempty : chunk ≠ []) (fits : t < 2 ^ cfg.tsW) :
      SessionMove cfg reg c (({ c with lastActivityAt := t }.bufAppend chunk).settle cfg) []
  /-- The end of a FEED that does not stall (R260). -/
  | endFeed (idle : c.phase = .idle) (calm : stalled cfg c.buf = false) :
      SessionMove cfg reg c { c with phase := .awaitingData } []
  /-- CLOSE, or the close on the stall limit (R262, R263). -/
  | close (n : Nat) (reason : CloseReason) :
      SessionMove cfg reg c (Session.closedAt cfg n) [.connectionClosed reason]

/-- Everything an operation that completes can do to the block; the working registers and what it returns are left out. -/
inductive OpEffect (s t : State) : Prop
  /-- Contexts and log stay as they were. -/
  | quiet (setup : s.SameSetup t) (ctxs : t.ctxs = s.ctxs) (log : t.log = s.log)
  /-- One open session moves; its events are logged under its number and cid. -/
  | session (k : Nat) (c c' : Session) (evs : List Event) (setup : s.SameSetup t) (at_k : s.ctxs[k]? = some c)
      (isOpen : c.isOpen = true) (move : SessionMove s.cfg s.reg c c' evs) (ctxs : t.ctxs = s.ctxs.set k c')
      (log : t.log = s.log ++ c.logged evs)
  /-- OPEN (R250). -/
  | opened (cid time k : Nat) (cid_fits : cid < 2 ^ s.cfg.cidW) (time_fits : time < 2 ^ s.cfg.tsW)
      (fresh : s.findCtx openPhase cid = none) (taken : s.freeContext = some k)
      (eq : t = { (s.setCtx k (Session.opened cid time (s.opened + 1))) with
        slots := s.slots.tail, opened := s.opened + 1 }.done .nothing [])
  /-- REGISTER_TAG (R264). -/
  | registered (id : TagId) (kind : Kind) (label : Label) (allClosed : s.ctxs.any Session.isOpen = false)
      (legal : (s.reg.register id kind label).legal = true)
      (eq : t = { s with reg := s.reg.register id kind label }.done .nothing [])
  /-- RESET (R330). -/
  | reset (eq : t = { s with
      ctxs := closeAll s.cfg s.free s.ctxs, free := s.free + 3 * s.ctxs.length }.done .nothing [])

theorem State.sameSetup_refl (s : State) : s.SameSetup s := ⟨rfl, rfl, rfl, rfl, rfl, rfl, rfl⟩

theorem Session.isOpen_of_phase {c : Session} {p : Phase} (h : c.phase = p) (hp : p ≠ .closed) : c.isOpen = true := by
  rw [Session.isOpen_iff, h]; exact hp

/-- An operation that only returns a value has no effect on the block. -/
theorem OpEffect.done (s : State) (v : Result) (evs : List Event) : OpEffect s (s.done v evs) :=
  .quiet s.sameSetup_refl rfl rfl

/-- A round of the extended loop has no effect on contexts and log. -/
theorem OpEffect.afterRound (s : State) (w : Work) (evs : List Event) : OpEffect s (s.afterRound w evs) :=
  .quiet s.sameSetup_refl rfl rfl

/-- A round of the main loop moves the current session, where it is open. -/
theorem OpEffect.tagRound (s : State) (t : Byte) (value : List Byte) : OpEffect s (s.tagRound t value) := by
  have setup : s.SameSetup (s.tagRound t value) := by simp [State.SameSetup, State.tagRound]
  have log : (s.tagRound t value).log = s.log := by simp [State.tagRound]
  obtain ⟨-, hnone, hsome⟩ := s.tagRound_spec t value
  cases hcur : s.curSession with
  | none => exact .quiet setup (hnone hcur) log
  | some c =>
    obtain ⟨hc, hopen⟩ := State.curSession_some hcur
    have himei : s.curIMEI = c.lastIMEI := by simp [State.curIMEI, hcur]
    have ctxs := hsome c hcur
    rw [himei] at ctxs
    exact .session s.cur c _ [] setup hc hopen (.tagRound t value _ _ _) ctxs (by simpa [Session.logged] using log)

/-- Closing an open context is a move of its session. -/
theorem OpEffect.closeContext {s : State} {k : Nat} {c : Session} (hc : s.ctxs[k]? = some c) (hopen : c.isOpen = true)
    (reason : CloseReason) : OpEffect s (s.closeContext k c reason) :=
  .session k c _ _ s.sameSetup_refl hc hopen (.close s.free reason) rfl rfl

/-- A frame step of a due context is a move of its session; `cur` may have been set before. -/
theorem OpEffect.frameStepAt {s t : State} {j k : Nat} {c : Session} (hc : s.ctxs[k]? = some c)
    (hdue : c.phase = .hasCompleteFrames) (h : { s with cur := j }.frameStepAt k c = .next t) : OpEffect s t := by
  obtain ⟨c', evs, hf, rfl⟩ := State.frameStepAt_next h
  exact .session k c c' evs s.sameSetup_refl hc (Session.isOpen_of_phase hdue (by decide))
    (.frameStep c' evs hdue hf) rfl rfl

/-- A frame class of the opcode table is a frame step of the current context. -/
theorem OpEffect.frameRow {s t : State} {bytes : List Byte} (h : s.frameRow bytes = .next t) : OpEffect s t := by
  obtain ⟨c, hc, hdue, -, hf⟩ := State.frameRow_next h
  exact .frameStepAt hc hdue hf

theorem OpEffect.frameStep {cid : Nat} {s t : State} (h : execFrameStep cid s = .next t) : OpEffect s t := by
  obtain ⟨k, c, hc, hdue, -, hf⟩ := execFrameStep_next h
  exact .frameStepAt hc hdue hf

theorem OpEffect.sendAck {s t : State} {bytes : List Byte} (h : s.sendAck bytes = .next t) : OpEffect s t := by
  obtain ⟨c, hcur, rfl⟩ := State.sendAck_next h
  obtain ⟨hc, hopen⟩ := State.curSession_some hcur
  have hset : s.ctxs = s.ctxs.set s.cur c := by
    obtain ⟨hlt, rfl⟩ := List.getElem?_eq_some_iff.1 hc
    simp
  exact .session s.cur c c _ s.sameSetup_refl hc hopen (.acknowledge bytes) hset rfl

theorem OpEffect.execDecodeRecord {cid : Nat} {body : List Byte} {start stop : Nat} {s t : State}
    (h : execDecodeRecord cid body start stop s = .next t) : OpEffect s t := by
  obtain ⟨k, c, hf, -, -, -, rfl⟩ := execDecodeRecord_next h
  obtain ⟨hc, hopen, -⟩ := State.findCtx_some hf
  exact .session k c _ [] s.sameSetup_refl hc hopen (.decodeRecord body start stop) rfl (by simp [Session.logged])

theorem OpEffect.execFeed {cid time : Nat} {chunk : List Byte} {s t : State}
    (h : execFeed cid chunk time s = .next t) : OpEffect s t := by
  obtain ⟨ht, k, c, hf, ⟨-, rfl⟩ | ⟨hne, rfl⟩⟩ := execFeed_next h
  · exact .quiet s.sameSetup_refl rfl rfl
  · obtain ⟨hc, hphase, -⟩ := State.findCtx_some hf
    have hwait : c.phase = .awaitingData := by simpa [waitingPhase] using hphase
    exact .session k c _ [] s.sameSetup_refl hc (Session.isOpen_of_phase hwait (by decide))
      (.feed chunk time hwait hne ht) rfl (by simp [Session.logged])

theorem OpEffect.execCloseSession {cid : Nat} {reason : HostReason} {s t : State}
    (h : execCloseSession cid reason s = .next t) : OpEffect s t := by
  obtain ⟨k, c, hf, rfl⟩ := execCloseSession_next h
  obtain ⟨hc, hopen, -⟩ := State.findCtx_some hf
  exact .closeContext hc hopen _

/-- The end of a FEED is a move of its session: a close on the stall limit, or back to AwaitingData. -/
theorem OpEffect.endFeed {s : State} {k : Nat} {c : Session} (hc : s.ctxs[k]? = some c) (hidle : c.phase = .idle) :
    OpEffect s (s.endFeed k c) := by
  have hopen : c.isOpen = true := Session.isOpen_of_phase hidle (by decide)
  rcases s.endFeed_cases k c with ⟨-, he⟩ | ⟨hcalm, he⟩ <;> rw [he]
  · exact .closeContext hc hopen _
  · exact .session k c _ [] s.sameSetup_refl hc hopen (.endFeed hidle hcalm) rfl (by simp [Session.logged])

/-- Everything an operation that completes does to the block, one case per row of the opcode table. -/
theorem exec_effect {i : Instr} {s t : State} (h : exec i s = .next t) : OpEffect s t := by
  cases i with
  | telemetry | keepalive | extension => exact .frameRow h
  | tagEscape => cases h; exact .afterRound s _ _
  | tagImei value =>
    change execTagImei value s = .next t at h
    unfold execTagImei at h
    split at h
    · cases h; exact .tagRound s _ _
    · cases h
  | tagRecstart | tagKnown | tagUnknown => cases h; exact .tagRound s _ _
  | xtagModbus | xtagKnown | xtagUnknown => cases h; exact .afterRound s _ _
  | kindUint8 | kindInt8 | kindUint16 | kindInt16 | kindUint32 | kindInt32 | kindFixedString | kindDateTimeSeconds
  | kindCoordinates | kindSpeedDirection | kindStatusBits | kindIoBitfield | kindModbusScaled =>
    cases h; exact .done s _ _
  | ackOk | ackReject => exact .sendAck h
  | openSession cid time =>
    obtain ⟨hcid, htime, hfresh, k, hk, heq⟩ := execOpenSession_next h
    exact .opened cid time k hcid htime hfresh hk heq
  | feed => exact .execFeed h
  | closeSession => exact .execCloseSession h
  | registerTag id kind label =>
    obtain ⟨hclosed, hlegal, heq⟩ := execRegisterTag_next h
    exact .registered id kind label hclosed hlegal heq
  | resetBlock => cases h; exact .reset rfl
  | crcCompute | crcValidate | tryExtract | classify | buildAck => cases h; exact .done s _ _
  | split body len =>
    change execSplit body len s = .next t at h
    unfold execSplit at h
    split at h
    · cases h; exact .done s _ _
    · cases h
  | decodeRecord => exact .execDecodeRecord h
  | decodeExt =>
    obtain ⟨-, -, -, rfl⟩ := execDecodeExt_next h
    exact .done s _ _
  | frameStep => exact .frameStep h

/-- The parameters, the registry, the contexts, the log and the count of sessions are the same: what the fetch of an operation, which
uses up a choice or an entry of a list and loads registers, leaves alone. -/
def State.SameBlock (s t : State) : Prop :=
  t.cfg = s.cfg ∧ t.reg = s.reg ∧ t.ctxs = s.ctxs ∧ t.log = s.log ∧ t.opened = s.opened

theorem State.loadSpan_sameBlock (s : State) (f : Format) (bytes : List Byte) : s.SameBlock (s.loadSpan f bytes) := by
  cases f <;> exact ⟨rfl, rfl, rfl, rfl, rfl⟩

/-- Everything a step does to the block: what it fetches leaves the block alone, and then one operation has its effect. -/
theorem step_effect {s t : State} (h : step s = .next t) : ∃ s', s.SameBlock s' ∧ OpEffect s' t := by
  rcases step_cases h with ⟨-, rfl⟩ | ⟨k, c, -, hc, hidle, rfl⟩ | ⟨k, c, i, -, -, -, -, he⟩
    | ⟨o, rest, -, -, he⟩ | ⟨o, rest, -, -, he⟩ | ⟨f, bytes, rest, i, left, -, -, -, he⟩
  · exact ⟨t, ⟨rfl, rfl, rfl, rfl, rfl⟩, .quiet t.sameSetup_refl rfl rfl⟩
  · exact ⟨{ s with sched := s.sched.tail }, ⟨rfl, rfl, rfl, rfl, rfl⟩, .endFeed hc hidle⟩
  · exact ⟨{ s with sched := s.sched.tail, cur := k }, ⟨rfl, rfl, rfl, rfl, rfl⟩, exec_effect he⟩
  · exact ⟨{ s with sched := s.sched.tail, queue := rest }, ⟨rfl, rfl, rfl, rfl, rfl⟩, exec_effect he⟩
  · exact ⟨{ s with sched := s.sched.tail, bench := rest }, ⟨rfl, rfl, rfl, rfl, rfl⟩, exec_effect he⟩
  · exact ⟨_, State.loadSpan_sameBlock { s with sched := s.sched.tail, bench := rest } f bytes, exec_effect he⟩

/-- An operation only appends to the log, events of one session. -/
theorem OpEffect.log_append {s t : State} (h : OpEffect s t) :
    ∃ (serial cid : Nat) (evs : List Event), t.log = s.log ++ evs.map fun e => ⟨serial, cid, e⟩ := by
  cases h with
  | quiet _ _ log => exact ⟨0, 0, [], by simpa using log⟩
  | session k c c' evs _ _ _ _ _ log => exact ⟨c.serial, c.cid, evs, log⟩
  | opened _ _ _ _ _ _ _ eq => exact ⟨0, 0, [], by simp [eq]⟩
  | registered _ _ _ _ _ eq => exact ⟨0, 0, [], by simp [eq]⟩
  | reset eq => exact ⟨0, 0, [], by simp [eq]⟩

/-- Settles O10: only the move of a session logs anything, under that session's number and cid. -/
theorem stepAppendsEventsOfOneConnection : Obligations.StepAppendsEventsOfOneConnection := by
  intro s t h
  obtain ⟨s', ⟨-, -, -, hlog, -⟩, heff⟩ := step_effect h
  rw [← hlog]
  exact heff.log_append

end Sys2Proof.Machine
end

section
/-! SUPPORT. The IMEI through a record's decoding: in a legal registry every IMEI written is fifteen bytes (R9, R190). -/

namespace Sys2Proof.Machine
open Sys2Proof

/-- A `lastIMEI` is absent or fifteen bytes (R24). -/
def WholeIMEI (imei : Option (List Byte)) : Prop := ∀ v, imei = some v → v.length = 15

theorem wholeIMEI_none : WholeIMEI none := by simp [WholeIMEI]

/-- An item keeps the IMEI, or writes the fifteen bytes of the registry's own definition of 0x03. -/
theorem mainItem_wholeIMEI {reg : Registry} (hreg : reg.legal = true) (t : Byte) (value : List Byte) (stop : Nat) {d : Dec}
    (h : WholeIMEI d.imei) : WholeIMEI (mainItem reg t value stop d).imei := by
  rcases mainItem_cases reg t value stop d with ⟨-, he⟩ | ⟨f, -, -, he⟩ | ⟨f, hf, hlen, he⟩ <;> rw [he]
  · exact h
  · exact h
  · by_cases ht : t = tagIMEI
    · subst ht
      rw [mainDef_imei_of_legal hreg, Option.some.injEq] at hf
      subst hf
      simpa [WholeIMEI, Kind.width] using hlen
    · simpa [ht] using h

theorem mainLoop_wholeIMEI {reg : Registry} (hreg : reg.legal = true) (stop fuel : Nat) (rest : List Byte) {d : Dec}
    (h : WholeIMEI d.imei) : WholeIMEI (mainLoop reg stop fuel rest d).imei := by
  induction fuel generalizing rest d with
  | zero => exact h
  | succ fuel ih =>
    cases rest with
    | nil => exact h
    | cons t rest =>
      simp only [mainLoop]
      split
      · exact ih _ h
      · exact ih _ (mainItem_wholeIMEI hreg t _ stop h)

theorem decodeRecord_wholeIMEI {reg : Registry} (hreg : reg.legal = true) (body : List Byte) (start stop : Nat)
    {imei : Option (List Byte)} (h : WholeIMEI imei) : WholeIMEI (decodeRecord reg body start stop imei).imei :=
  mainLoop_wholeIMEI hreg stop _ _ h

theorem decodeSegments_wholeIMEI {reg : Registry} (hreg : reg.legal = true) (body : List Byte) (segs : List (Nat × Nat))
    {imei : Option (List Byte)} (h : WholeIMEI imei) : WholeIMEI (decodeSegments reg body segs imei).1 := by
  induction segs generalizing imei with
  | nil => exact h
  | cons seg segs ih => exact ih (decodeRecord_wholeIMEI hreg body seg.1 seg.2 h)

theorem completeFrame_wholeIMEI {reg : Registry} (hreg : reg.legal = true) (f : Frame) {imei : Option (List Byte)}
    (h : WholeIMEI imei) : WholeIMEI (completeFrame reg f imei).1 := by
  simp only [completeFrame]
  split
  · exact decodeSegments_wholeIMEI hreg f.body _ h
  · exact h

end Sys2Proof.Machine
end

section
/-! SUPPORT. The invariant of one context, by the phase it is in, and what each move of a session leaves of it. -/

namespace Sys2Proof.Machine
open Sys2Proof

/-- The part of a context's invariant that no phase enters: cid and timestamps have their widths, the IMEI its length (R21, R24). -/
def Session.FieldsFit (cfg : Config) (c : Session) : Prop :=
  c.cid < 2 ^ cfg.cidW ∧ c.createdAt < 2 ^ cfg.tsW ∧ c.lastActivityAt < 2 ^ cfg.tsW ∧ WholeIMEI c.lastIMEI

theorem Session.Wf.fieldsFit {cfg : Config} {c : Session} (h : c.Wf cfg) : c.FieldsFit cfg := by
  obtain ⟨hcid, hcreated, hactive, himei, -⟩ := h
  exact ⟨hcid, hcreated, hactive, himei⟩

theorem Session.FieldsFit.withIMEI {cfg : Config} {c : Session} (h : c.FieldsFit cfg) {imei : Option (List Byte)}
    (himei : WholeIMEI imei) : Session.FieldsFit cfg { c with lastIMEI := imei } := by
  obtain ⟨hcid, hcreated, hactive, -⟩ := h
  exact ⟨hcid, hcreated, hactive, himei⟩

theorem Session.wf_of_closed {cfg : Config} {c : Session} (h : c.FieldsFit cfg) (hp : c.phase = .closed) (hbuf : c.buf = [])
    (himei : c.lastIMEI = none) : c.Wf cfg := by
  obtain ⟨hcid, hcreated, hactive, hwhole⟩ := h
  exact ⟨hcid, hcreated, hactive, hwhole, fun _ => ⟨hbuf, himei⟩, by simp [hp]⟩

theorem Session.wf_of_awaitingData {cfg : Config} {c : Session} (h : c.FieldsFit cfg) (hp : c.phase = .awaitingData)
    (hwaits : tryExtract cfg.maxBodyLen c.buf = .incomplete) (hcalm : stalled cfg c.buf = false) : c.Wf cfg := by
  obtain ⟨hcid, hcreated, hactive, hwhole⟩ := h
  exact ⟨hcid, hcreated, hactive, hwhole, by simp [hp], fun _ => ⟨hwaits, hcalm⟩, by simp [hp]⟩

/-- The phase of R260 is the one the buffer calls for. -/
theorem Session.settle_wf {cfg : Config} {c : Session} (h : c.FieldsFit cfg) : (c.settle cfg).Wf cfg := by
  obtain ⟨hcid, hcreated, hactive, hwhole⟩ := h
  refine ⟨hcid, hcreated, hactive, hwhole, ?_⟩
  by_cases hx : tryExtract cfg.maxBodyLen c.buf = .incomplete <;> simp [phaseAfter, hx]

/-- In an open context the phase clauses do not look at the IMEI. -/
theorem Session.Wf.withIMEI {cfg : Config} {c : Session} (h : c.Wf cfg) (hopen : c.isOpen = true)
    {imei : Option (List Byte)} (himei : WholeIMEI imei) : Session.Wf cfg { c with lastIMEI := imei } := by
  obtain ⟨hcid, hcreated, hactive, -, -, hphases⟩ := h
  exact ⟨hcid, hcreated, hactive, himei, fun hp => absurd hp ((Session.isOpen_iff c).1 hopen), hphases⟩

theorem Session.closedAt_wf (cfg : Config) (n : Nat) : (Session.closedAt cfg n).Wf cfg :=
  Session.wf_of_closed
    ⟨Nat.mod_lt _ (by positivity), Nat.mod_lt _ (by positivity), Nat.mod_lt _ (by positivity), wholeIMEI_none⟩ rfl rfl rfl

theorem stalled_nil (cfg : Config) : stalled cfg [] = false := by
  unfold stalled; split <;> simp

theorem Session.opened_wf {cfg : Config} {cid t : Nat} (hcid : cid < 2 ^ cfg.cidW) (ht : t < 2 ^ cfg.tsW) (serial : Nat) :
    (Session.opened cid t serial).Wf cfg :=
  Session.wf_of_awaitingData ⟨hcid, ht, ht, wholeIMEI_none⟩ rfl (tryExtract_incomplete_iff.2 (.inl (by simp)))
    (stalled_nil cfg)

/-- A frame step settles the context on what is left in its buffer (R256, R260). -/
theorem Session.frameStep_wf {cfg : Config} {reg : Registry} (hreg : reg.legal = true) {c c' : Session} {evs : List Event}
    (h : c.FieldsFit cfg) (hf : c.frameStep cfg reg = some (c', evs)) : c'.Wf cfg := by
  rcases Session.frameStep_cases hf with ⟨_, k, -, rfl, -⟩ | ⟨_, _, T, -, rfl, -⟩ | ⟨f, T, -, rfl, -⟩
  · exact Session.settle_wf (c := c.bufDrop k) h
  · exact Session.settle_wf (c := c.bufDrop T) h
  · obtain ⟨-, -, -, himei⟩ := id h
    exact Session.settle_wf (c := { c.bufDrop T with lastIMEI := (completeFrame reg f c.lastIMEI).1 })
      (h.withIMEI (completeFrame_wholeIMEI hreg f himei))

/-- A frame step keeps the context's cid and session number. -/
theorem Session.frameStep_identity {cfg : Config} {reg : Registry} {c c' : Session} {evs : List Event}
    (hf : c.frameStep cfg reg = some (c', evs)) : c'.cid = c.cid ∧ c'.serial = c.serial := by
  rcases Session.frameStep_cases hf with ⟨_, _, -, rfl, -⟩ | ⟨_, _, _, -, rfl, -⟩ | ⟨_, _, -, rfl, -⟩ <;> exact ⟨rfl, rfl⟩

/-- Every move of an open session keeps its context well-formed. -/
theorem SessionMove.keeps_wf {cfg : Config} {reg : Registry} {c c' : Session} {evs : List Event}
    (h : SessionMove cfg reg c c' evs) (hreg : reg.legal = true) (hopen : c.isOpen = true) (hwf : c.Wf cfg) : c'.Wf cfg := by
  obtain ⟨hcid, hcreated, -, himei⟩ := hwf.fieldsFit
  cases h with
  | acknowledge => exact hwf
  | tagRound t value stop off entries => exact hwf.withIMEI hopen (mainItem_wholeIMEI hreg t value stop himei)
  | decodeRecord body start stop => exact hwf.withIMEI hopen (decodeRecord_wholeIMEI hreg body start stop himei)
  | frameStep _ _ _ answer => exact Session.frameStep_wf hreg hwf.fieldsFit answer
  | feed chunk t _ _ fits =>
    exact Session.settle_wf (c := { c with lastActivityAt := t }.bufAppend chunk) ⟨hcid, hcreated, fits, himei⟩
  | endFeed idle calm =>
    obtain ⟨-, -, -, -, -, -, hidle, -⟩ := id hwf
    exact Session.wf_of_awaitingData hwf.fieldsFit rfl (hidle idle) calm
  | close n => exact Session.closedAt_wf cfg n

/-- A move closes the context, or keeps its cid and session number. -/
theorem SessionMove.closes_or_keeps_identity {cfg : Config} {reg : Registry} {c c' : Session} {evs : List Event}
    (h : SessionMove cfg reg c c' evs) :
    (c'.isOpen = false ∧ c'.serial = 0) ∨ (c'.cid = c.cid ∧ c'.serial = c.serial) := by
  cases h with
  | close => exact .inl ⟨rfl, rfl⟩
  | frameStep _ _ _ answer => exact .inr (Session.frameStep_identity answer)
  | acknowledge | tagRound | decodeRecord | feed | endFeed => exact .inr ⟨rfl, rfl⟩

end Sys2Proof.Machine
end

section
/-! SUPPORT. The invariant of the block: after reset, and kept by every effect of an operation. -/

namespace Sys2Proof.Machine
open Sys2Proof

/-- Two contexts, if both are open, serve different connections and different sessions (R25; log entry 11). -/
def Session.Apart (a b : Session) : Prop := a.isOpen = true → b.isOpen = true → a.cid ≠ b.cid ∧ a.serial ≠ b.serial

theorem Session.Apart.symm {a b : Session} (h : a.Apart b) : b.Apart a := by
  intro hb ha
  obtain ⟨hcid, hserial⟩ := h ha hb
  exact ⟨hcid.symm, hserial.symm⟩

theorem Session.apart_of_closed {a : Session} (h : a.isOpen = false) (b : Session) : a.Apart b := by
  intro ha; simp [h] at ha

/-- In a list of contexts pairwise apart, any two at different places are apart. -/
theorem apart_of_ne {l : List Session} (h : l.Pairwise Session.Apart) {j k : Nat} {a b : Session} (ha : l[j]? = some a)
    (hb : l[k]? = some b) (hjk : j ≠ k) : a.Apart b := by
  obtain ⟨hj, rfl⟩ := List.getElem?_eq_some_iff.1 ha
  obtain ⟨hk, rfl⟩ := List.getElem?_eq_some_iff.1 hb
  rw [List.pairwise_iff_getElem] at h
  rcases Nat.lt_or_gt_of_ne hjk with hlt | hgt
  · exact h j k hj hk hlt
  · exact (h k j hk hj hgt).symm

/-- A context written apart from all the others leaves the list pairwise apart. -/
theorem pairwise_apart_set {l : List Session} (h : l.Pairwise Session.Apart) {k : Nat} {a : Session}
    (ha : ∀ j b, j ≠ k → l[j]? = some b → a.Apart b) : (l.set k a).Pairwise Session.Apart := by
  rw [List.pairwise_iff_getElem] at h ⊢
  intro i j hi hj hij
  simp only [List.length_set] at hi hj
  simp only [List.getElem_set]
  split
  · rw [if_neg (by omega)]
    exact ha j _ (by omega) (List.getElem?_eq_getElem hj)
  · split
    · exact (ha i _ (by omega) (List.getElem?_eq_getElem hi)).symm
    · exact h i j hi hj hij

theorem pairwise_apart_of_closed {l : List Session} (h : ∀ c ∈ l, c.isOpen = false) : l.Pairwise Session.Apart :=
  List.Pairwise.imp_of_mem (R := fun _ _ => True) (fun {a b} ha _ _ => Session.apart_of_closed (h a ha) b)
    (List.pairwise_of_forall (fun _ _ => trivial))

/-- The contexts' part of the invariant: each well-formed with a number given out, all apart. -/
def ContextsOk (cfg : Config) (opened : Nat) (l : List Session) : Prop :=
  (∀ c ∈ l, c.Wf cfg ∧ c.serial ≤ opened) ∧ l.Pairwise Session.Apart

/-- Writing one context keeps the contexts' part, if the new one is well-formed and apart from the others. -/
theorem ContextsOk.set {cfg : Config} {n m : Nat} {l : List Session} (h : ContextsOk cfg n l) (hnm : n ≤ m) {k : Nat}
    {a : Session} (hwf : a.Wf cfg) (hserial : a.serial ≤ m) (hapart : ∀ j b, j ≠ k → l[j]? = some b → a.Apart b) :
    ContextsOk cfg m (l.set k a) := by
  obtain ⟨hall, hpair⟩ := h
  refine ⟨fun c hc => ?_, pairwise_apart_set hpair hapart⟩
  rcases List.mem_or_eq_of_mem_set hc with hc | rfl
  · exact ⟨(hall c hc).1, (hall c hc).2.trans hnm⟩
  · exact ⟨hwf, hserial⟩

theorem closeAll_contextsOk (cfg : Config) (opened n : Nat) (l : List Session) : ContextsOk cfg opened (closeAll cfg n l) := by
  refine ⟨fun c hc => ?_, pairwise_apart_of_closed fun c hc => ?_⟩ <;> obtain ⟨m, rfl⟩ := mem_closeAll hc
  · exact ⟨Session.closedAt_wf cfg m, by simp⟩
  · rfl

/-- The move of a session keeps the contexts' part of the invariant. -/
theorem SessionMove.keeps_contextsOk {cfg : Config} {reg : Registry} {c c' : Session} {evs : List Event} {opened k : Nat}
    {l : List Session} (h : SessionMove cfg reg c c' evs) (hreg : reg.legal = true) (hok : ContextsOk cfg opened l)
    (hc : l[k]? = some c) (hopen : c.isOpen = true) : ContextsOk cfg opened (l.set k c') := by
  obtain ⟨hall, hpair⟩ := id hok
  obtain ⟨hwf, hserial⟩ := hall c (List.mem_of_getElem? hc)
  have hwf' : c'.Wf cfg := h.keeps_wf hreg hopen hwf
  rcases h.closes_or_keeps_identity with ⟨hclosed, hzero⟩ | ⟨hcid, hser⟩
  · exact hok.set le_rfl hwf' (by omega) fun _ b _ _ => Session.apart_of_closed hclosed b
  · refine hok.set le_rfl hwf' (by omega) fun j b hj hb _ hbo => ?_
    rw [hcid, hser]
    exact apart_of_ne hpair hc hb hj.symm hopen hbo

/-- OPEN keeps the contexts' part: its cid is no open one's and its number is new. -/
theorem opened_contextsOk {s : State} {cid time k : Nat} (hok : ContextsOk s.cfg s.opened s.ctxs) (hcid : cid < 2 ^ s.cfg.cidW)
    (htime : time < 2 ^ s.cfg.tsW) (hfresh : s.findCtx openPhase cid = none) :
    ContextsOk s.cfg (s.opened + 1) (s.ctxs.set k (Session.opened cid time (s.opened + 1))) := by
  obtain ⟨hall, -⟩ := id hok
  refine hok.set (by omega) (Session.opened_wf hcid htime _) (by simp) fun j b _ hb _ hbo => ?_
  have hmem : b ∈ s.ctxs := List.mem_of_getElem? hb
  have hserial : b.serial ≤ s.opened := (hall b hmem).2
  exact ⟨(State.findCtx_none.1 hfresh b hmem hbo).symm, by simp only [Session.opened_serial]; omega⟩

theorem State.inv_iff (s : State) : s.Inv ↔
    s.cfg.legal = true ∧ s.ctxs.length = s.cfg.nSess ∧ s.reg.legal = true ∧ Memory.wf s = true
      ∧ (∀ e ∈ s.log, e.serial ≤ s.opened) ∧ ContextsOk s.cfg s.opened s.ctxs := by
  constructor
  · rintro ⟨hcfg, hlen, hreg, hmem, hctxs, hlog, hpair⟩
    exact ⟨hcfg, hlen, hreg, hmem, hlog, hctxs, hpair⟩
  · rintro ⟨hcfg, hlen, hreg, hmem, hlog, hctxs, hpair⟩
    exact ⟨hcfg, hlen, hreg, hmem, hctxs, hlog, hpair⟩

/-- The invariant reads only the parameters, the registry, the contexts, the log and the count of sessions. -/
theorem State.SameBlock.inv {s t : State} (h : s.SameBlock t) (hs : s.Inv) : t.Inv := by
  obtain ⟨hcfg, hreg, hctxs, hlog, hopened⟩ := h
  simpa only [State.Inv, Memory.wf, hcfg, hreg, hctxs, hlog, hopened] using hs

/-- The events of a session are logged under its number. -/
theorem log_serial_le {c : Session} {evs : List Event} {log : List Logged} {n : Nat} (hlog : ∀ e ∈ log, e.serial ≤ n)
    (hc : c.serial ≤ n) : ∀ e ∈ log ++ c.logged evs, e.serial ≤ n := by
  intro e he
  rcases List.mem_append.1 he with he | he
  · exact hlog e he
  · obtain ⟨_, -, rfl⟩ := List.mem_map.1 he
    exact hc

/-- Every effect of an operation keeps the invariant. -/
theorem OpEffect.keeps_inv {s t : State} (h : OpEffect s t) (hs : s.Inv) : t.Inv := by
  obtain ⟨hcfg, hlen, hreg, hmem, hlog, hok⟩ := (State.inv_iff s).1 hs
  cases h with
  | quiet setup ctxs log =>
    obtain ⟨ecfg, ereg, -, -, -, -, eopened⟩ := setup
    exact State.SameBlock.inv ⟨ecfg, ereg, ctxs, log, eopened⟩ hs
  | session k c c' evs setup at_k isOpen move ctxs log =>
    obtain ⟨ecfg, ereg, -, -, -, -, eopened⟩ := setup
    have hserial : c.serial ≤ s.opened := (hok.1 c (List.mem_of_getElem? at_k)).2
    rw [State.inv_iff, Memory.wf, ecfg, ereg, eopened, ctxs, log, List.length_set]
    exact ⟨hcfg, hlen, hreg, hmem, log_serial_le hlog hserial, move.keeps_contextsOk hreg hok at_k isOpen⟩
  | opened cid time k cid_fits time_fits fresh taken eq =>
    subst eq
    exact (State.inv_iff _).2 ⟨hcfg, by simpa using hlen, hreg, hmem, fun e he => (hlog e he).trans (Nat.le_succ _),
      opened_contextsOk hok cid_fits time_fits fresh⟩
  | registered id kind label allClosed legal eq =>
    subst eq
    exact (State.inv_iff _).2 ⟨hcfg, hlen, legal, register_keeps_canonical s.reg id kind label hmem, hlog, hok⟩
  | reset eq =>
    subst eq
    exact (State.inv_iff _).2 ⟨hcfg, by simpa using hlen, hreg, hmem, hlog, closeAll_contextsOk s.cfg s.opened s.free s.ctxs⟩

/-- Settles O7: the fetch leaves the block alone, and every effect of the operation fetched keeps the invariant. -/
theorem stepKeepsInvariant : Obligations.StepKeepsInvariant := by
  intro s t hs h
  obtain ⟨s', hsame, heff⟩ := step_effect h
  exact heff.keeps_inv (hsame.inv hs)

theorem Session.atReset_wf : Session.atReset.Wf {} :=
  Session.wf_of_closed ⟨by decide, by decide, by decide, wholeIMEI_none⟩ rfl rfl rfl

/-- Settles O6: the one context after reset is Closed, and REG_MIN is legal and canonical. -/
theorem resetMeetsInvariant : Obligations.ResetMeetsInvariant := by
  refine (State.inv_iff _).2 ⟨by decide, rfl, by decide, reset_memory_wf, by simp [State.reset], ?_, by simp [State.reset]⟩
  intro c hc
  obtain rfl : c = Session.atReset := List.mem_singleton.1 hc
  exact ⟨Session.atReset_wf, le_rfl⟩

end Sys2Proof.Machine
end

section
/-! SUPPORT. REGISTER_TAG: what a lookup finds after the registry's write, and when the operation completes. -/

namespace Sys2Proof.Machine
open Sys2Proof

/-- The id of a definition in its map, without its key space (R13). -/
def tagIdNat : TagId → Nat
  | .main t => t.toNat
  | .ext x => x.toNat

/-- After the write the id has the new definition (R264). -/
theorem lookup_register_same (r : Registry) (id : TagId) (kind : Kind) (label : Label) :
    (r.register id kind label).lookup id = some ⟨tagIdNat id, kind, label⟩ := by
  cases id <;> simp [Registry.register, Registry.lookup, Registry.mainDef, Registry.extDef, lookupDef_insertDef, tagIdNat]

/-- After the write every other id, of either space, has its old definition (R264). -/
theorem lookup_register_other (r : Registry) {id other : TagId} (h : other ≠ id) (kind : Kind) (label : Label) :
    (r.register id kind label).lookup other = r.lookup other := by
  cases id with
  | main t =>
    cases other with
    | main u =>
      have hne : t.toNat ≠ u.toNat := fun he => h (by rw [BitVec.eq_of_toNat_eq he])
      simp [Registry.register, Registry.lookup, Registry.mainDef, lookupDef_insertDef, hne]
    | ext y => rfl
  | ext x =>
    cases other with
    | main u => rfl
    | ext y =>
      have hne : x.toNat ≠ y.toNat := fun he => h (by rw [BitVec.eq_of_toNat_eq he])
      simp [Registry.register, Registry.lookup, Registry.extDef, lookupDef_insertDef, hne]

theorem any_isOpen_eq_false_iff {l : List Session} : l.any Session.isOpen = false ↔ ∀ c ∈ l, c.phase = .closed := by
  simp [Session.isOpen]

/-- REGISTER_TAG by its two tests (R264, R299). -/
theorem exec_registerTag_of_closed {id : TagId} {kind : Kind} {label : Label} {s : State}
    (hclosed : ∀ c ∈ s.ctxs, c.phase = .closed) :
    exec (.registerTag id kind label) s =
      if (s.reg.register id kind label).legal = true then
        .next ({ s with reg := s.reg.register id kind label }.done .nothing [])
      else .refused .illegalRegistry := by
  have hany : s.ctxs.any Session.isOpen = false := any_isOpen_eq_false_iff.2 hclosed
  simp [exec, execRegisterTag, hany]

theorem exec_registerTag_of_open {id : TagId} {kind : Kind} {label : Label} {s : State}
    (hopen : ∃ c ∈ s.ctxs, c.phase ≠ .closed) : exec (.registerTag id kind label) s = .refused .sessionOpen := by
  have hany : s.ctxs.any Session.isOpen = true := by simpa [Session.isOpen] using hopen
  simp [exec, execRegisterTag, hany]

/-- Settles O54: with every context Closed the legality of the written registry decides; the lookups are those of the write. -/
theorem registerTagCompletes : Obligations.RegisterTagCompletes := by
  intro id kind label s reg
  refine ⟨fun hclosed hlegal => ?_, exec_registerTag_of_open, fun hclosed hillegal => ?_⟩
  · refine ⟨{ s with reg := reg }.done .nothing [], (exec_registerTag_of_closed hclosed).trans (if_pos hlegal), ?_⟩
    exact ⟨⟨_, lookup_register_same s.reg id kind label, rfl, rfl⟩,
      fun other hne => lookup_register_other s.reg hne kind label, rfl, rfl, rfl, rfl, rfl, rfl, rfl, rfl, rfl⟩
  · exact (exec_registerTag_of_closed hclosed).trans (if_neg (by simp [reg, hillegal]))

/-- A REGISTER_TAG that completes leaves a legal registry, in which the id has the definition written. -/
theorem registerTag_next_legal {id : TagId} {kind : Kind} {label : Label} {s t : State}
    (h : exec (.registerTag id kind label) s = .next t) :
    t.reg.legal = true ∧ t.reg.lookup id = some ⟨tagIdNat id, kind, label⟩ := by
  obtain ⟨-, hlegal, rfl⟩ := execRegisterTag_next h
  exact ⟨hlegal, lookup_register_same s.reg id kind label⟩

/-- Settles O55: the registry left is legal, so the escape has no definition and 0x03 has that of R9 (a). -/
theorem imeiOnlyAsItselfAndEscapeNeverRegistrable : Obligations.ImeiOnlyAsItselfAndEscapeNeverRegistrable := by
  intro kind label s t
  constructor
  · intro h
    obtain ⟨hlegal, hdef⟩ := registerTag_next_legal h
    have hnone : t.reg.lookup (.main 0xFE) = none := mainDef_escape_of_legal hlegal
    rw [hnone] at hdef
    cases hdef
  · intro hother h
    obtain ⟨hlegal, hdef⟩ := registerTag_next_legal h
    have himei : t.reg.lookup (.main 0x03) = some ⟨3, .fixedString 15, imeiLabel⟩ := mainDef_imei_of_legal hlegal
    rw [himei] at hdef
    cases hdef
    rcases hother with hkind | hlabel
    · exact hkind rfl
    · exact hlabel rfl

end Sys2Proof.Machine
end

section
/-! SUPPORT. The parameters and the registry: REGISTER_TAG alone writes the registry, only with every context Closed, and nothing
writes a parameter (R8, R20, R33, R66, R264). -/

namespace Sys2Proof.Machine
open Sys2Proof

theorem OpEffect.keeps_cfg {s t : State} (h : OpEffect s t) : t.cfg = s.cfg := by
  cases h with
  | quiet setup _ _ => exact setup.1
  | session _ _ _ _ setup _ _ _ _ _ => exact setup.1
  | opened _ _ _ _ _ _ _ eq => rw [eq]; rfl
  | registered _ _ _ _ _ eq => rw [eq]; rfl
  | reset eq => rw [eq]; rfl

/-- The one effect that writes the registry needs every context Closed (R33, R264). -/
theorem OpEffect.keeps_reg_of_open {s t : State} (h : OpEffect s t) (hopen : s.ctxs.any Session.isOpen = true) :
    t.reg = s.reg := by
  cases h with
  | quiet setup _ _ => exact setup.2.1
  | session _ _ _ _ setup _ _ _ _ _ => exact setup.2.1
  | opened _ _ _ _ _ _ _ eq => rw [eq]; rfl
  | registered _ _ _ allClosed _ _ => rw [allClosed] at hopen; cases hopen
  | reset eq => rw [eq]; rfl

/-- Settles O8: what a step fetches leaves the block alone, and of the effects of operations none writes a parameter. -/
theorem openSessionsFreezeRegistry : Obligations.OpenSessionsFreezeRegistry := by
  intro s t h
  obtain ⟨s', ⟨hcfg, hreg, hctxs, -, -⟩, heff⟩ := step_effect h
  rw [← hcfg, ← hreg, ← hctxs]
  exact ⟨heff.keeps_cfg, heff.keeps_reg_of_open⟩

theorem State.frameStepAt_keeps_reg {s t : State} {k : Nat} {c : Session} (h : s.frameStepAt k c = .next t) :
    t.reg = s.reg := by
  obtain ⟨c', evs, -, rfl⟩ := State.frameStepAt_next h
  rfl

theorem State.frameRow_keeps_reg {s t : State} {bytes : List Byte} (h : s.frameRow bytes = .next t) : t.reg = s.reg := by
  obtain ⟨c, -, -, -, hf⟩ := State.frameRow_next h
  exact State.frameStepAt_keeps_reg hf

theorem State.sendAck_keeps_reg {s t : State} {bytes : List Byte} (h : s.sendAck bytes = .next t) : t.reg = s.reg := by
  obtain ⟨c, -, rfl⟩ := State.sendAck_next h
  rfl

@[simp] theorem State.tagRound_reg (s : State) (t : Byte) (value : List Byte) : (s.tagRound t value).reg = s.reg :=
  State.setIMEI_reg _ _

/-- An operation that completes keeps the registry, or is a REGISTER_TAG and leaves its write. -/
theorem exec_reg_cases {i : Instr} {s t : State} (h : exec i s = .next t) :
    t.reg = s.reg ∨ ∃ id kind label, i = .registerTag id kind label ∧ t.reg = s.reg.register id kind label := by
  cases i with
  | registerTag id kind label =>
    obtain ⟨-, -, rfl⟩ := execRegisterTag_next h
    exact .inr ⟨id, kind, label, rfl, rfl⟩
  | telemetry | keepalive | extension => exact .inl (State.frameRow_keeps_reg h)
  | frameStep =>
    obtain ⟨k, c, -, -, -, hf⟩ := execFrameStep_next h
    exact .inl (State.frameStepAt_keeps_reg (s := { s with cur := k }) hf)
  | tagImei value =>
    change execTagImei value s = .next t at h
    unfold execTagImei at h
    split at h
    · cases h; exact .inl (State.tagRound_reg s _ _)
    · cases h
  | tagRecstart | tagKnown | tagUnknown => cases h; exact .inl (State.tagRound_reg s _ _)
  | ackOk | ackReject => exact .inl (State.sendAck_keeps_reg h)
  | openSession =>
    obtain ⟨-, -, -, k, -, rfl⟩ := execOpenSession_next h
    exact .inl rfl
  | feed =>
    obtain ⟨-, k, c, -, ⟨-, rfl⟩ | ⟨-, rfl⟩⟩ := execFeed_next h <;> exact .inl rfl
  | closeSession =>
    obtain ⟨k, c, -, rfl⟩ := execCloseSession_next h
    exact .inl rfl
  | split body len =>
    change execSplit body len s = .next t at h
    unfold execSplit at h
    split at h
    · cases h; exact .inl rfl
    · cases h
  | decodeRecord =>
    obtain ⟨k, c, -, -, -, -, rfl⟩ := execDecodeRecord_next h
    exact .inl rfl
  | decodeExt =>
    obtain ⟨-, -, -, rfl⟩ := execDecodeExt_next h
    exact .inl rfl
  | tagEscape | xtagModbus | xtagKnown | xtagUnknown | kindUint8 | kindInt8 | kindUint16 | kindInt16 | kindUint32 | kindInt32
  | kindFixedString | kindDateTimeSeconds | kindCoordinates | kindSpeedDirection | kindStatusBits | kindIoBitfield
  | kindModbusScaled | resetBlock | crcCompute | crcValidate | tryExtract | classify | buildAck =>
    cases h; exact .inl rfl

/-- Settles O9, row by row of the opcode table. -/
theorem onlyRegisterTagWritesRegistry : Obligations.OnlyRegisterTagWritesRegistry := by
  intro i s t h hne
  exact (exec_reg_cases h).resolve_left hne

end Sys2Proof.Machine
end

section
/-! SUPPORT. What a step is, one equation per agent and per thing it finds (R30, R255, R260, R265). -/

namespace Sys2Proof.Machine
open Sys2Proof

theorem step_host {s : State} {o : HostOp} {rest : List HostOp} (hpick : s.pick = some .host) (hqueue : s.queue = o :: rest) :
    step s = exec o.instr { s with sched := s.sched.tail, queue := rest } := by
  simp [step, State.fetch, State.fetchHost, hpick, hqueue]

theorem step_bench_op {s : State} {o : IntOp} {rest : List Bench} (hpick : s.pick = some .bench)
    (hbench : s.bench = .op o :: rest) : step s = exec o.instr { s with sched := s.sched.tail, bench := rest } := by
  simp [step, State.fetch, State.fetchBench, hpick, hbench]

theorem step_bench_item {s : State} {f : Format} {bytes left : List Byte} {rest : List Bench} {i : Instr}
    (hpick : s.pick = some .bench) (hbench : s.bench = .item f bytes :: rest)
    (hdecode : decode s.reg f bytes = .ok (i, left)) :
    step s = exec i ({ s with sched := s.sched.tail, bench := rest }.loadSpan f bytes) := by
  simp [step, State.fetch, State.fetchBench, hpick, hbench, hdecode]

theorem step_bench_undecodable {s : State} {f : Format} {bytes : List Byte} {rest : List Bench} {e : DecodeError}
    (hpick : s.pick = some .bench) (hbench : s.bench = .item f bytes :: rest) (hdecode : decode s.reg f bytes = .error e) :
    step s = .refused (.undecodable e) := by
  simp [step, State.fetch, State.fetchBench, hpick, hbench, hdecode]

theorem step_session_frame {s : State} {k : Nat} {c : Session} {i : Instr} {left : List Byte}
    (hpick : s.pick = some (.session k)) (hc : s.ctxs[k]? = some c) (hdue : c.phase = .hasCompleteFrames)
    (hdecode : decode s.reg .frameHdr c.buf = .ok (i, left)) :
    step s = exec i { s with sched := s.sched.tail, cur := k } := by
  simp [step, State.fetch, State.fetchSession, hpick, hc, hdue, hdecode]

theorem step_session_frameStep {s : State} {k : Nat} {c : Session} {e : DecodeError}
    (hpick : s.pick = some (.session k)) (hc : s.ctxs[k]? = some c) (hdue : c.phase = .hasCompleteFrames)
    (hdecode : decode s.reg .frameHdr c.buf = .error e) :
    step s = exec (.frameStep c.cid) { s with sched := s.sched.tail, cur := k } := by
  simp [step, State.fetch, State.fetchSession, hpick, hc, hdue, hdecode]

theorem step_session_idle {s : State} {k : Nat} {c : Session} (hpick : s.pick = some (.session k))
    (hc : s.ctxs[k]? = some c) (hidle : c.phase = .idle) :
    step s = .next ({ s with sched := s.sched.tail }.endFeed k c) := by
  simp [step, State.fetch, State.fetchSession, hpick, hc, hidle]

theorem step_wait {s : State} (hpick : s.pick = none) : step s = .next s := by
  simp [step, State.fetch, hpick]

/-- Settles O4: the equations of the step, one per clause. -/
theorem stepRunsWhatItFetches : Obligations.StepRunsWhatItFetches := fun _ =>
  ⟨fun _ _ => step_host, fun _ _ => step_bench_op, fun _ _ _ _ _ => step_bench_item, fun _ _ _ _ => step_bench_undecodable,
    fun _ _ _ _ => step_session_frame, fun _ _ _ => step_session_frameStep, fun _ _ => step_session_idle, step_wait⟩

end Sys2Proof.Machine
end

section
/-! SUPPORT. The registers and flags TRY_EXTRACT writes, one equation per way it can go (R27, R28, R140). -/

namespace Sys2Proof.Machine
open Sys2Proof

/-- The declared length as a number (R81). -/
theorem frontLength_eq (B : List Byte) : frontLength B = u16le B 1 % 32768 := by
  rw [frontLength, declaredLength_eq, halfAt_toNat]

theorem frontLength_lt (B : List Byte) : frontLength B < 32768 := by
  rw [frontLength_eq]; exact Nat.mod_lt _ (by decide)

/-- The registers and flags written from the first three bytes: the header, the length field, `L`, `ap` and `len_ok`. -/
def Work.withHeader (w : Work) (max : Nat) (B : List Byte) : Work :=
  { w with
    hdr := byteAt B 0, raw := halfAt B 1, len := BitVec.ofNat 15 (frontLength B), ap := archivePending (halfAt B 1)
    lenOk := lengthOk max (frontLength B) }

/-- Those and `T`, written for a length within the limits. -/
def Work.withTotal (w : Work) (max : Nat) (B : List Byte) : Work :=
  { w.withHeader max B with total := BitVec.ofNat 16 (frontLength B + 5) }

/-- All of them, `rx`, `calc` and `crc_ok` too, written for a whole frame. -/
def Work.withChecksum (w : Work) (max : Nat) (B : List Byte) : Work :=
  let rx := halfAt B (frontLength B + 3)
  let computed := crc16 (B.take (frontLength B + 3))
  { w.withTotal max B with rx := rx, computed := computed, crc := computed, crcOk := checksumOk computed rx }

theorem extractRegs_of_short (w : Work) {max : Nat} {B : List Byte} (h3 : B.length < 3) : w.extractRegs max B = w := by
  simp [Work.extractRegs, h3]

theorem extractRegs_of_badLength (w : Work) {max : Nat} {B : List Byte} (h3 : 3 ≤ B.length) (hL : max < frontLength B) :
    w.extractRegs max B = w.withHeader max B := by
  have hl : lengthOk max (frontLength B) = false := by simpa [lengthOk] using hL
  simp [Work.extractRegs, Work.withHeader, Nat.not_lt.2 h3, hl]

theorem extractRegs_of_partial (w : Work) {max : Nat} {B : List Byte} (h3 : 3 ≤ B.length) (hL : frontLength B ≤ max)
    (hpart : B.length < frontLength B + 5) : w.extractRegs max B = w.withTotal max B := by
  have hl : lengthOk max (frontLength B) = true := by simpa [lengthOk] using hL
  simp [Work.extractRegs, Work.withTotal, Work.withHeader, Nat.not_lt.2 h3, hl, hpart]

theorem extractRegs_of_whole (w : Work) {max : Nat} {B : List Byte} (hL : frontLength B ≤ max)
    (hwhole : frontLength B + 5 ≤ B.length) : w.extractRegs max B = w.withChecksum max B := by
  have h3 : ¬ B.length < 3 := by omega
  have hl : lengthOk max (frontLength B) = true := by simpa [lengthOk] using hL
  simp [Work.extractRegs, Work.withChecksum, Work.withTotal, Work.withHeader, h3, hl, Nat.not_lt.2 hwhole]

/-- The three ways TRY_EXTRACT can go with three bytes or more: a length out of limits, part of a frame, a whole frame. -/
theorem extractRegs_cases (w : Work) (max : Nat) {B : List Byte} (h3 : 3 ≤ B.length) :
    (max < frontLength B ∧ w.extractRegs max B = w.withHeader max B)
    ∨ (frontLength B ≤ max ∧ B.length < frontLength B + 5 ∧ w.extractRegs max B = w.withTotal max B)
    ∨ (frontLength B ≤ max ∧ frontLength B + 5 ≤ B.length ∧ w.extractRegs max B = w.withChecksum max B) := by
  rcases Nat.lt_or_ge max (frontLength B) with hL | hL
  · exact .inl ⟨hL, extractRegs_of_badLength w h3 hL⟩
  · rcases Nat.lt_or_ge B.length (frontLength B + 5) with hs | hs
    · exact .inr (.inl ⟨hL, hs, extractRegs_of_partial w h3 hL hs⟩)
    · exact .inr (.inr ⟨hL, hs, extractRegs_of_whole w hL hs⟩)

/-- What the registers written from the first three bytes hold, as numbers (R81). -/
theorem withHeader_values (w : Work) (max : Nat) (B : List Byte) :
    (w.withHeader max B).hdr = byteAt B 0 ∧ (w.withHeader max B).raw.toNat = u16le B 1
      ∧ (w.withHeader max B).len.toNat = frontLength B ∧ (w.withHeader max B).ap = decide (32768 ≤ u16le B 1)
      ∧ (w.withHeader max B).lenOk = decide (frontLength B ≤ max) := by
  refine ⟨rfl, halfAt_toNat B 1, ?_, ?_, rfl⟩
  · exact (BitVec.toNat_ofNat _ _).trans (Nat.mod_eq_of_lt (frontLength_lt B))
  · exact (archivePending_eq _).trans (by rw [halfAt_toNat])

theorem withTotal_total (w : Work) (max : Nat) (B : List Byte) : (w.withTotal max B).total.toNat = frontLength B + 5 := by
  have := frontLength_lt B
  exact (BitVec.toNat_ofNat _ _).trans (Nat.mod_eq_of_lt (by omega))

/-- Settles O17: the clauses are read off the equation of the way TRY_EXTRACT goes. -/
theorem tryExtractWritesRegistersAndFlags : Obligations.TryExtractWritesRegistersAndFlags := by
  intro B s raw L max M rx w
  have hL : frontLength B = L := frontLength_eq B
  rw [← hL]
  refine ⟨rfl, extractRegs_of_short s.work, fun h3 => ?_, fun h3 hok => ?_, fun h3 hcut => ?_, fun hok hwhole => ?_⟩
  · rcases extractRegs_cases s.work max h3 with ⟨-, he⟩ | ⟨-, -, he⟩ | ⟨-, -, he⟩ <;> simp only [w, he] <;>
      exact withHeader_values s.work max B
  · rcases extractRegs_cases s.work max h3 with ⟨hbad, -⟩ | ⟨-, -, he⟩ | ⟨-, -, he⟩
    · omega
    · simp only [w, he]; exact withTotal_total s.work max B
    · simp only [w, he]; exact withTotal_total s.work max B
  · rcases extractRegs_cases s.work max h3 with ⟨-, he⟩ | ⟨-, -, he⟩ | ⟨hok, hwhole, -⟩
    · simp only [w, he]; exact ⟨rfl, rfl, rfl⟩
    · simp only [w, he]; exact ⟨rfl, rfl, rfl⟩
    · omega
  · simp only [w, extractRegs_of_whole s.work hok hwhole, M, rx, ← hL]
    exact ⟨rfl, rfl, rfl⟩

end Sys2Proof.Machine
end

section
/-! SUPPORT. The frame-class rows: what stands at the front of a buffer that begins with a written frame, and when a row runs or is
refused (R23, R59, R80, R141, R256). -/

namespace Sys2Proof.Machine
open Sys2Proof

/-- The row of a frame with this header byte (R82). -/
def frameInstr (hdr : Byte) (ap : Bool) (body : List Byte) (k : Half) : Instr :=
  if hdr = 0x01 then .telemetry ap body k else if hdr = 0x15 then .keepalive ap body k else .extension hdr ap body k

/-- Whatever its class, a frame-class row is the frame step on the frame's bytes. -/
theorem exec_frameInstr (hdr : Byte) (ap : Bool) (body : List Byte) (k : Half) (s : State) :
    exec (frameInstr hdr ap body k) s = s.frameRow (frameBytes hdr ap body k) := by
  unfold frameInstr
  split
  · next h => rw [h]; rfl
  · split
    · next h => rw [h]; rfl
    · rfl

theorem frameBytes_length (hdr : Byte) (ap : Bool) (body : List Byte) (k : Half) :
    (frameBytes hdr ap body k).length = body.length + 5 := by
  simp [frameBytes, frameHead, halfBytes]

theorem byteAt_frameBytes_zero (hdr : Byte) (ap : Bool) (body : List Byte) (k : Half) (X : List Byte) :
    byteAt (frameBytes hdr ap body k ++ X) 0 = hdr := rfl

/-- Behind the header byte of a written frame stands its length field (R80). -/
theorem halfAt_frameBytes_one (hdr : Byte) (ap : Bool) (body : List Byte) (k : Half) (X : List Byte) :
    halfAt (frameBytes hdr ap body k ++ X) 1 = lengthField ap body :=
  halfAt_halfBytes (lengthField ap body) (body ++ halfBytes k ++ X)

/-- A written frame declares its body's length (R81). -/
theorem frontLength_frameBytes (hdr : Byte) (ap : Bool) {body : List Byte} (h : body.length ≤ 32767) (k : Half)
    (X : List Byte) : frontLength (frameBytes hdr ap body k ++ X) = body.length := by
  rw [frontLength, halfAt_frameBytes_one, declaredLength_lengthField ap h]

/-- When the declared length is out of limits, TRY_EXTRACT says so and consumes one byte (R141). -/
theorem tryExtract_of_badLength {max : Nat} {B : List Byte} (h3 : 3 ≤ B.length) (hL : max < frontLength B) :
    tryExtract max B = .badLength (frontLength B) 1 := by
  have hl : lengthOk max (frontLength B) = false := by simpa [lengthOk] using hL
  simp [tryExtract, Nat.not_lt.2 h3, hl]

theorem Session.frameStep_of_badLength {cfg : Config} {reg : Registry} {c : Session} {L k : Nat}
    (h : tryExtract cfg.maxBodyLen c.buf = .badLength L k) :
    c.frameStep cfg reg
      = some ((c.bufDrop k).settle cfg, [.protocolError (.malformedLength L (byteAt c.buf 0))]) := by
  simp [Session.frameStep, h, raise]

theorem State.frameStepAt_of_some {s : State} {k : Nat} {c c' : Session} {evs : List Event}
    (h : c.frameStep s.cfg s.reg = some (c', evs)) :
    s.frameStepAt k c = .next (((s.setCtx k c').emit c evs).done .nothing evs) := by
  simp [State.frameStepAt, h]

/-- A frame-class row runs on a due context that begins with its frame (R23, R59). -/
theorem State.frameRow_of_front {s : State} {c : Session} {bytes : List Byte} (hc : s.ctxs[s.cur]? = some c)
    (hdue : c.phase = .hasCompleteFrames) (hfront : bytes <+: c.buf) : s.frameRow bytes = s.frameStepAt s.cur c := by
  simp [State.frameRow, hc, hdue, hfront]

theorem State.frameRow_of_not_front {s : State} {c : Session} {bytes : List Byte} (hc : s.ctxs[s.cur]? = some c)
    (hdue : c.phase = .hasCompleteFrames) (hfront : ¬ bytes <+: c.buf) : s.frameRow bytes = .refused .frameNotAtFront := by
  simp [State.frameRow, hc, hdue, hfront]

theorem State.frameRow_of_not_due {s : State} (bytes : List Byte)
    (h : ∀ c, s.ctxs[s.cur]? = some c → c.phase ≠ .hasCompleteFrames) : s.frameRow bytes = .refused .noFrameStepDue := by
  unfold State.frameRow
  cases hc : s.ctxs[s.cur]? with
  | none => rfl
  | some c => simp [h c hc]

/-- Settles O44: the row is the frame step on its frame's bytes, which declare the body's length. -/
theorem frameRowsOnlyRunFromTheFront : Obligations.FrameRowsOnlyRunFromTheFront := by
  intro hdr ap body k s row
  have hrow : exec row s = s.frameRow (frameBytes hdr ap body k) := exec_frameInstr hdr ap body k s
  rw [hrow]
  refine ⟨fun c X hc hdue hbuf hbig hfits => ?_, fun c => State.frameRow_of_not_front,
    State.frameRow_of_not_due (frameBytes hdr ap body k)⟩
  intro left
  have hlen : frontLength c.buf = body.length := by rw [hbuf, frontLength_frameBytes hdr ap hfits]
  have h3 : 3 ≤ c.buf.length := by rw [hbuf, List.length_append, frameBytes_length]; omega
  have htry : tryExtract s.cfg.maxBodyLen c.buf = .badLength body.length 1 := by
    rw [← hlen] at hbig ⊢
    exact tryExtract_of_badLength h3 hbig
  have hstep := Session.frameStep_of_badLength (reg := s.reg) htry
  have hfirst : byteAt c.buf 0 = hdr := by rw [hbuf, byteAt_frameBytes_zero]
  have hdrop : (c.bufDrop 1).settle s.cfg = { c with buf := left, phase := phaseAfter s.cfg left } := by
    simp only [Session.settle, Session.bufDrop, hbuf, left]
  rw [hfirst, hdrop] at hstep
  rw [State.frameRow_of_front hc hdue (hbuf ▸ List.prefix_append _ _), State.frameStepAt_of_some hstep]
  exact ⟨_, rfl, rfl, rfl, rfl, State.sameSetup_refl s⟩

end Sys2Proof.Machine
end

section
/-! SUPPORT. OPEN: when it completes, when it is refused, and that the new session's lists begin empty (R35, R250, R251). -/

namespace Sys2Proof.Machine
open Sys2Proof

/-- The state OPEN leaves when it takes context `k` (R250, R38). -/
def State.afterOpen (s : State) (cid t k : Nat) : State :=
  { (s.setCtx k (Session.opened cid t (s.opened + 1))) with
    slots := s.slots.tail, opened := s.opened + 1 }.done .nothing []

theorem findCtx_openPhase_none {s : State} {cid : Nat} :
    s.findCtx openPhase cid = none ↔ ∀ c ∈ s.ctxs, c.phase ≠ .closed → c.cid ≠ cid := by
  simp [State.findCtx_none, openPhase]

section
variable {cid t : Nat} {s : State}

theorem exec_openSession_of_fresh {k : Nat} (hcid : cid < 2 ^ s.cfg.cidW) (ht : t < 2 ^ s.cfg.tsW)
    (hfresh : s.findCtx openPhase cid = none) (hfree : s.freeContext = some k) :
    exec (.openSession cid t) s = .next (s.afterOpen cid t k) := by
  simp [exec, execOpenSession, State.afterOpen, hcid, ht, hfresh, hfree]

theorem exec_openSession_of_full (hcid : cid < 2 ^ s.cfg.cidW) (ht : t < 2 ^ s.cfg.tsW)
    (hfresh : s.findCtx openPhase cid = none) (hfull : s.freeContext = none) :
    exec (.openSession cid t) s = .refused .noFreeContext := by
  simp [exec, execOpenSession, hcid, ht, hfresh, hfull]

theorem exec_openSession_of_taken {r : Nat × Session} (hcid : cid < 2 ^ s.cfg.cidW) (ht : t < 2 ^ s.cfg.tsW)
    (htaken : s.findCtx openPhase cid = some r) : exec (.openSession cid t) s = .refused .cidAlreadyOpen := by
  simp [exec, execOpenSession, hcid, ht, htaken]

theorem exec_openSession_of_wide (hwide : 2 ^ s.cfg.cidW ≤ cid ∨ 2 ^ s.cfg.tsW ≤ t) :
    exec (.openSession cid t) s = .refused .operandTooWide := by
  have hnot : ¬ (cid < 2 ^ s.cfg.cidW ∧ t < 2 ^ s.cfg.tsW) := by omega
  change execOpenSession cid t s = _
  rw [execOpenSession, if_neg hnot]

end

/-- A session number above every one in the log has no events yet (R35; log entry 11). -/
theorem State.eventsOf_of_fresh {s : State} {n : Nat} (h : ∀ e ∈ s.log, e.serial < n) : s.eventsOf n = [] := by
  have hfilter : (s.log.filter fun e => e.serial == n) = [] := by
    rw [List.filter_eq_nil_iff]
    intro e he
    simpa using (h e he).ne
  rw [State.eventsOf, hfilter, List.map_nil]

/-- Settles O50: the two searches, for the cid and for a Closed context, decide how OPEN ends. -/
theorem openCompletes : Obligations.OpenCompletes := by
  intro cid t s
  refine ⟨fun hcid ht => ⟨fun hfresh hclosed => ?completes, fun htaken => ?taken, fun hfull => ?full⟩,
    exec_openSession_of_wide⟩
  case completes =>
    obtain ⟨d, hd, hdclosed⟩ := hclosed
    have hsome : s.freeContext ≠ none := fun hnone =>
      (Session.isOpen_iff d).1 (State.freeContext_none.1 hnone d hd) hdclosed
    obtain ⟨k, hk⟩ := Option.ne_none_iff_exists'.1 hsome
    obtain ⟨c, hc, hcclosed⟩ := State.freeContext_some hk
    have hphase : c.phase = .closed := by simpa [Session.isOpen] using hcclosed
    refine ⟨s.afterOpen cid t k, k, c, exec_openSession_of_fresh hcid ht (findCtx_openPhase_none.2 hfresh) hk, hc, hphase,
      rfl, rfl, rfl, rfl, rfl, rfl, rfl, rfl, rfl, fun hlog => ?_⟩
    have hevents : (s.afterOpen cid t k).eventsOf (s.opened + 1) = [] :=
      State.eventsOf_of_fresh fun e he => Nat.lt_succ_of_le (hlog e he)
    exact ⟨hevents, by rw [State.tx, hevents, List.flatMap_nil]⟩
  case taken =>
    obtain ⟨d, hd, hdopen, hdcid⟩ := htaken
    have hsome : s.findCtx openPhase cid ≠ none := fun hnone => findCtx_openPhase_none.1 hnone d hd hdopen hdcid
    obtain ⟨r, hr⟩ := Option.ne_none_iff_exists'.1 hsome
    exact exec_openSession_of_taken hcid ht hr
  case full =>
    exact exec_openSession_of_full hcid ht (findCtx_openPhase_none.2 fun c hc _ => (hfull c hc).2)
      (State.freeContext_none.2 fun c hc => (Session.isOpen_iff c).2 (hfull c hc).1)

end Sys2Proof.Machine
end

section
/-! SUPPORT. The walk of a segment by the rows of the opcode table. One round of R180, whatever its tag, is a `mainRound`; running the
row fetched at `off` is that round on the decoder's registers; rounds compose (R31, R83, R180, R182, R195). -/

namespace Sys2Proof.Machine
open Sys2Proof

/-- One round of R180 on the tag `t`, with `rest` the segment's bytes behind it (R182). -/
def mainRound (reg : Registry) (stop : Nat) (t : Byte) (rest : List Byte) (d : Dec) : Dec :=
  if t = tagESCAPE then escapeItem reg rest stop d else mainItem reg t (rest.take (reg.mainWidth t)) stop d

/-- The segment's bytes behind that round. -/
def mainRest (reg : Registry) (t : Byte) (rest : List Byte) : List Byte :=
  if t = tagESCAPE then (rest.drop 2).drop (u16le rest 0) else rest.drop (reg.mainWidth t)

theorem mainLoop_nil (reg : Registry) (stop fuel : Nat) (d : Dec) : mainLoop reg stop fuel [] d = d := by
  cases fuel <;> rfl

theorem mainLoop_cons (reg : Registry) (stop fuel : Nat) (t : Byte) (rest : List Byte) (d : Dec) :
    mainLoop reg stop (fuel + 1) (t :: rest) d
      = mainLoop reg stop fuel (mainRest reg t rest) (mainRound reg stop t rest d) := by
  simp only [mainLoop, mainRest, mainRound]
  split <;> rfl

/-- The same point of a decoding, with earlier events before its own. -/
def Dec.after (d : Dec) (evs : List Event) : Dec := { d with out := evs ++ d.out }

theorem mainItem_after (reg : Registry) (t : Byte) (value : List Byte) (stop : Nat) (d : Dec) (evs : List Event) :
    mainItem reg t value stop (d.after evs) = (mainItem reg t value stop d).after evs := by
  unfold mainItem
  split
  · split
    · simp [Dec.after, raise]
    · rfl
  · simp [Dec.after, raise]

/-- The events before a round have no influence on it. -/
theorem mainRound_after (reg : Registry) (stop : Nat) (t : Byte) (rest : List Byte) (d : Dec) (evs : List Event) :
    mainRound reg stop t rest (d.after evs) = (mainRound reg stop t rest d).after evs := by
  unfold mainRound
  split
  · simp [escapeItem, Dec.after]
  · exact mainItem_after ..

theorem mainLoop_after (reg : Registry) (stop fuel : Nat) (rest : List Byte) (d : Dec) (evs : List Event) :
    mainLoop reg stop fuel rest (d.after evs) = (mainLoop reg stop fuel rest d).after evs := by
  induction fuel generalizing rest d with
  | zero => rfl
  | succ fuel ih =>
    cases rest with
    | nil => rfl
    | cons t rest => rw [mainLoop_cons, mainLoop_cons, mainRound_after, ih]

theorem mainRest_suffix (reg : Registry) (t : Byte) (rest : List Byte) : mainRest reg t rest <:+ rest := by
  unfold mainRest
  split
  · exact (List.drop_suffix _ _).trans (List.drop_suffix _ _)
  · exact List.drop_suffix _ _

/-- After a round the offset stands at the bytes left: the offset moves by as much as the round takes, and a cut-off item takes
everything to the segment's end (R184, R185, R196). -/
theorem mainRound_off (reg : Registry) {stop : Nat} (t : Byte) (rest : List Byte) {d : Dec}
    (h : d.off + 1 + rest.length = stop) :
    (mainRound reg stop t rest d).off + (mainRest reg t rest).length = stop := by
  unfold mainRound mainRest
  split
  · simp only [escapeItem, decodeExt_next, List.length_drop]
    split <;> omega
  · rcases mainItem_cases reg t (rest.take (reg.mainWidth t)) stop d with ⟨hdef, he⟩ | ⟨f, hdef, hcut, he⟩ | ⟨f, hdef, hwhole, he⟩ <;>
      rw [he]
    · simp only [Registry.mainWidth, hdef, unknownSkip, List.length_take, List.length_drop]
      omega
    · simp only [Registry.mainWidth, hdef, List.length_take, List.length_drop] at hcut ⊢
      omega
    · simp only [Registry.mainWidth, hdef, List.length_take, List.length_drop] at hwhole ⊢
      omega

/-- DECODE_EXT reads of its span only the length field and the block (R195). -/
theorem decodeExt_take (reg : Registry) (rest : List Byte) (off stop tagAt : Nat) :
    decodeExt reg (rest.take 2 ++ (rest.drop 2).take (u16le rest 0)) off stop tagAt = decodeExt reg rest off stop tagAt := by
  match rest with
  | [] => rfl
  | [_] => simp
  | b0 :: b1 :: items =>
    have hlen : ∀ l : List Byte, u16le (b0 :: b1 :: l) 0 = u16le [b0, b1] 0 := fun _ => rfl
    simp only [List.take_succ_cons, List.take_zero, List.drop_succ_cons, List.drop_zero, List.cons_append, List.nil_append, hlen]
    generalize hn : u16le [b0, b1] 0 = n
    rcases Nat.lt_or_ge items.length n with hcut | hwhole
    · rw [List.take_of_length_le hcut.le]
    · simp [decodeExt, hlen, hn, hwhole, List.take_take]

/-- Where a decoding stands, by the registers: no events yet. -/
def State.decAt (s : State) : Dec := ⟨s.work.off.toNat, s.work.entries, s.curIMEI, []⟩

/-- The segment's bytes from the offset on, by the registers. -/
def State.remaining (s : State) : List Byte := slice s.work.body s.work.off.toNat s.work.stop.toNat

/-- `t` is `s` gone on to the point `d` of the decoding in progress: the decoder's registers and the current session's `lastIMEI`
are those of `d`, the span is the same, and the log and the setup are as before (R31; log entry 30). -/
structure State.DecodedTo (s t : State) (d : Dec) : Prop where
  body    : t.work.body = s.work.body
  stop    : t.work.stop = s.work.stop
  off     : t.work.off = BitVec.ofNat 16 d.off
  entries : t.work.entries = d.entries
  out     : t.work.out = s.work.out ++ d.out
  session : t.curSession.isSome = true
  imei    : t.curIMEI = d.imei
  log     : t.log = s.log
  setup   : s.SameSetup t

theorem State.SameSetup.trans {s t u : State} (h : s.SameSetup t) (h' : t.SameSetup u) : s.SameSetup u := by
  obtain ⟨a, b, c, d, e, f, g⟩ := h
  obtain ⟨a', b', c', d', e', f', g'⟩ := h'
  exact ⟨a'.trans a, b'.trans b, c'.trans c, d'.trans d, e'.trans e, f'.trans f, g'.trans g⟩

theorem State.decodedTo_refl {s : State} (h : s.curSession.isSome = true) : s.DecodedTo s s.decAt :=
  ⟨rfl, rfl, by simp [State.decAt], rfl, by simp [State.decAt], h, rfl, rfl, s.sameSetup_refl⟩

theorem State.DecodedTo.trans {s t u : State} {d d' : Dec} (h : s.DecodedTo t d) (h' : t.DecodedTo u d') :
    s.DecodedTo u (d'.after d.out) where
  body := h'.body.trans h.body
  stop := h'.stop.trans h.stop
  off := h'.off
  entries := h'.entries
  out := by rw [h'.out, h.out, List.append_assoc]; rfl
  session := h'.session
  imei := h'.imei
  log := h'.log.trans h.log
  setup := h.setup.trans h'.setup

/-- The decoding goes on from where its registers say it stands. -/
theorem State.DecodedTo.decAt {s t : State} {d : Dec} (h : s.DecodedTo t d) (hoff : d.off < 65536) :
    t.decAt.after d.out = d := by
  have hnat : t.work.off.toNat = d.off := by rw [h.off, BitVec.toNat_ofNat]; exact Nat.mod_eq_of_lt hoff
  simp [State.decAt, Dec.after, hnat, h.entries, h.imei]

/-- After a write of the current session's `lastIMEI`, that is what stands there. -/
theorem State.curSession_of_set {s t : State} {c : Session} {imei : Option (List Byte)} (hcur : s.curSession = some c)
    (hat : t.cur = s.cur) (hset : t.ctxs = s.ctxs.set s.cur { c with lastIMEI := imei }) :
    t.curSession = some { c with lastIMEI := imei } := by
  obtain ⟨hc, hopen⟩ := State.curSession_some hcur
  obtain ⟨hlt, -⟩ := List.getElem?_eq_some_iff.1 hc
  have hopen' : ({ c with lastIMEI := imei } : Session).isOpen = true := hopen
  simp [State.curSession, hat, hset, hlt, hopen']

/-- The row of a tag other than the escape is one round of the decoding. -/
theorem State.tagRound_decodedTo {s : State} {c : Session} (hcur : s.curSession = some c) (t : Byte) (value : List Byte) :
    let d := mainItem s.reg t value s.work.stop.toNat s.decAt
    s.DecodedTo (s.tagRound t value) d ∧ (s.tagRound t value).ret.events = d.out := by
  intro d
  obtain ⟨heq, -, hset⟩ := s.tagRound_spec t value
  have hwork : (s.tagRound t value).work = { s.inRecord with
      tag := t, off := BitVec.ofNat 16 d.off, entries := d.entries, out := s.work.out ++ d.out } := by rw [heq]; rfl
  have hcur' := State.curSession_of_set (t := s.tagRound t value) hcur (by rw [heq]; rfl) (hset c hcur)
  exact ⟨{
      body := by rw [hwork]; rfl
      stop := by rw [hwork]; rfl
      off := by rw [hwork]
      entries := by rw [hwork]
      out := by rw [hwork]
      session := by rw [hcur']; rfl
      imei := by rw [State.curIMEI, hcur']; rfl
      log := by rw [heq]; rfl
      setup := by rw [heq]; exact s.sameSetup_refl }, by rw [heq]; rfl⟩

/-- So is the row of the escape: the decoder hands it all of its span that DECODE_EXT reads (R182). -/
theorem execTagEscape_decodedTo {s : State} {c : Session} (hcur : s.curSession = some c) (rest : List Byte) :
    let d := escapeItem s.reg rest s.work.stop.toNat s.decAt
    ∃ s', execTagEscape (rest.take 2) ((rest.drop 2).take (u16le rest 0)) s = .next s'
      ∧ s.DecodedTo s' d ∧ s'.ret.events = d.out := by
  simp only [execTagEscape, escapeItem, decodeExt_take, State.decAt, List.nil_append]
  refine ⟨_, rfl, ?_, rfl⟩
  constructor
  case session => exact Option.isSome_iff_exists.2 ⟨c, hcur⟩
  case setup => exact s.sameSetup_refl
  all_goals rfl

/-- Every tag but the escape is decoded to a row that runs `tagRound` on it, with the session open (R83). -/
theorem decodeTag8_tagRound (reg : Registry) {t : Byte} (ht : t ≠ tagESCAPE) (rest : List Byte) :
    ∃ i left, decodeTag8 reg (t :: rest) = .ok (i, left)
      ∧ ∀ s c, State.curSession s = some c → exec i s = .next (s.tagRound t (rest.take (reg.mainWidth t))) := by
  simp only [decodeTag8, if_neg ht]
  split
  · next h => exact ⟨_, _, rfl, fun s c hcur => by simp [exec, execTagImei, hcur, h]⟩
  · split
    · next h => exact ⟨_, _, rfl, fun s c _ => by rw [h]; rfl⟩
    · split <;> exact ⟨_, _, rfl, fun s c _ => rfl⟩

/-- The row fetched for the tag `t` runs, and is the round of R180 on that tag. -/
theorem exec_row_decodedTo {s : State} {c : Session} (hcur : s.curSession = some c) (t : Byte) (rest : List Byte) :
    let d := mainRound s.reg s.work.stop.toNat t rest s.decAt
    ∃ i left s', decodeTag8 s.reg (t :: rest) = .ok (i, left) ∧ exec i s = .next s'
      ∧ s.DecodedTo s' d ∧ s'.ret.events = d.out := by
  by_cases ht : t = tagESCAPE
  · obtain ⟨s', he, hd⟩ := execTagEscape_decodedTo hcur rest
    simp only [mainRound, decodeTag8, if_pos ht]
    exact ⟨_, _, s', rfl, he, hd⟩
  · obtain ⟨i, left, hd, he⟩ := decodeTag8_tagRound s.reg ht rest
    simp only [mainRound, if_neg ht]
    exact ⟨i, left, _, hd, he s c hcur, State.tagRound_decodedTo hcur t _⟩

theorem slice_drop (S : List Byte) {a a' b : Nat} (h : a ≤ a') : slice S a' b = (slice S a b).drop (a' - a) := by
  have hstart : a + (a' - a) = a' := by omega
  have hcount : b - a - (a' - a) = b - a' := by omega
  rw [slice, slice, List.drop_take, List.drop_drop, hstart, hcount]

/-- The bytes from the new offset on are those that end the bytes before. -/
theorem State.DecodedTo.remaining {s t : State} {d : Dec} {left : List Byte} (h : s.DecodedTo t d)
    (hsuffix : left <:+ s.remaining) (hlen : s.work.off.toNat + s.remaining.length = s.work.stop.toNat)
    (hoff : d.off + left.length = s.work.stop.toNat) : t.remaining = left := by
  have hle : left.length ≤ s.remaining.length := hsuffix.length_le
  have hlt := s.work.stop.isLt
  have hnat : t.work.off.toNat = d.off := by
    rw [h.off, BitVec.toNat_ofNat]; exact Nat.mod_eq_of_lt (by omega)
  have hcount : d.off - s.work.off.toNat = s.remaining.length - left.length := by omega
  rw [List.suffix_iff_eq_drop.1 hsuffix, ← hcount]
  simp only [State.remaining, h.body, h.stop, hnat]
  exact slice_drop _ (by omega)

theorem walkTags_at_end {s : State} (h : s.work.off = s.work.stop) (fuel : Nat) : walkTags fuel s = some (s, []) := by
  cases fuel <;> simp [walkTags, h]

theorem walkTags_row {s s' : State} {fuel : Nat} {i : Instr} {left : List Byte} (hne : s.work.off ≠ s.work.stop)
    (hdecode : decodeTag8 s.reg s.remaining = .ok (i, left)) (hexec : exec i s = .next s') :
    walkTags (fuel + 1) s = (walkTags fuel s').map fun r => (r.1, s'.ret.events ++ r.2) := by
  rw [State.remaining] at hdecode
  simp [walkTags, hne, hdecode, hexec]

/-- With nothing left of the segment, the walk and the loop of R180 both stop where they are. -/
theorem walkTags_eq_mainLoop_at_end (fuel : Nat) {s : State} (hcur : s.curSession.isSome = true)
    (hlen : s.work.off.toNat + s.remaining.length = s.work.stop.toNat) (hnil : s.remaining = []) :
    let d := mainLoop s.reg s.work.stop.toNat fuel s.remaining s.decAt
    ∃ t, walkTags fuel s = some (t, d.out) ∧ s.DecodedTo t d ∧ d.off = s.work.stop.toNat := by
  rw [hnil] at hlen
  rw [hnil, mainLoop_nil]
  exact ⟨s, walkTags_at_end (BitVec.eq_of_toNat_eq hlen) fuel, State.decodedTo_refl hcur, hlen⟩

/-- The walk by rows is the loop of R180, round by round, and both end at the segment's end. -/
theorem walkTags_eq_mainLoop (fuel : Nat) {s : State} (hcur : s.curSession.isSome = true)
    (hlen : s.work.off.toNat + s.remaining.length = s.work.stop.toNat) (hfuel : s.remaining.length ≤ fuel) :
    let d := mainLoop s.reg s.work.stop.toNat fuel s.remaining s.decAt
    ∃ t, walkTags fuel s = some (t, d.out) ∧ s.DecodedTo t d ∧ d.off = s.work.stop.toNat := by
  induction fuel generalizing s with
  | zero => exact walkTags_eq_mainLoop_at_end 0 hcur hlen (List.length_eq_zero_iff.1 (Nat.le_zero.1 hfuel))
  | succ fuel ih =>
    cases hrest : s.remaining with
    | nil => rw [← hrest]; exact walkTags_eq_mainLoop_at_end (fuel + 1) hcur hlen hrest
    | cons t rest =>
      obtain ⟨c, hc⟩ := Option.isSome_iff_exists.1 hcur
      obtain ⟨i, left, s', hdecode, hexec, hto, hevents⟩ := exec_row_decodedTo hc t rest
      have hcount : s.remaining.length = rest.length + 1 := by rw [hrest, List.length_cons]
      have hoff := mainRound_off s.reg t rest (d := s.decAt) (stop := s.work.stop.toNat) (by simp only [State.decAt]; omega)
      have hsuffix := mainRest_suffix s.reg t rest
      have hleft : s'.remaining = mainRest s.reg t rest :=
        hto.remaining (hrest ▸ hsuffix.trans (List.suffix_cons t rest)) hlen hoff
      have hlt := s.work.stop.isLt
      have hpoint := hto.decAt (by omega)
      have hreg : s'.reg = s.reg := hto.setup.2.1
      have hne : s.work.off ≠ s.work.stop := fun he => by rw [he] at hlen; omega
      have hnat : s'.work.off.toNat = (mainRound s.reg s.work.stop.toNat t rest s.decAt).off := by
        rw [hto.off, BitVec.toNat_ofNat]; exact Nat.mod_eq_of_lt (by omega)
      obtain ⟨u, hwalk, hu, hend⟩ := ih hto.session (by rw [hleft, hto.stop, hnat]; exact hoff)
        (by rw [hleft]; have := hsuffix.length_le; omega)
      rw [hleft, hto.stop, hreg] at hwalk hu hend
      rw [mainLoop_cons, ← hpoint, mainLoop_after]
      refine ⟨u, ?_, hto.trans hu, hend⟩
      rw [walkTags_row hne (hrest ▸ hdecode) hexec, hwalk, hevents]
      rfl

/-- Settles O35: DECODE_RECORD is the loop from where the registers stand, with no entry yet. -/
theorem recordIsWalkOfTagRows : Obligations.RecordIsWalkOfTagRows := by
  intro s c hcur hbody hle hstop hentries d
  have himei : s.curIMEI = c.lastIMEI := by simp [State.curIMEI, hcur]
  have hd : d = mainLoop s.reg s.work.stop.toNat (s.work.stop.toNat - s.work.off.toNat) s.remaining s.decAt := by
    simp only [d, decodeRecord, State.remaining, State.decAt, hentries, himei]
  have hcount : s.remaining.length = s.work.stop.toNat - s.work.off.toNat := by
    rw [State.remaining, slice_length]; omega
  obtain ⟨t, hwalk, ht, hend⟩ := walkTags_eq_mainLoop (s.work.stop.toNat - s.work.off.toNat)
    (Option.isSome_iff_exists.2 ⟨c, hcur⟩) (by omega) hcount.le
  rw [← hd] at hwalk ht hend
  have hoff : t.work.off = s.work.stop := by rw [ht.off, hend, BitVec.ofNat_toNat, BitVec.setWidth_eq]
  exact ⟨t, hwalk, ht.entries, ht.out, hoff, ht.imei, ht.log, ht.setup⟩

end Sys2Proof.Machine
end

section
/-! SUPPORT. Spans: what stays of a read when bytes are appended, two bytes in wire order at an offset, and a frame, read whole, as the
bytes it was read from (R11, R12, R50, R80 to R82). -/

namespace Sys2Proof.Machine
open Sys2Proof

theorem byteAt_append {S : List Byte} {o : Nat} (h : o < S.length) (X : List Byte) : byteAt (S ++ X) o = byteAt S o := by
  simp [byteAt, List.getElem?_append_left h]

theorem halfAt_append {S : List Byte} {o : Nat} (h : o + 1 < S.length) (X : List Byte) :
    halfAt (S ++ X) o = halfAt S o := by
  simp only [halfAt, u16le, u8, byteAt_append h, byteAt_append (Nat.lt_of_succ_lt h)]

theorem slice_append {S : List Byte} (a : Nat) {b : Nat} (h : b ≤ S.length) (X : List Byte) :
    slice (S ++ X) a b = slice S a b := by
  simp only [slice, ← List.drop_take, List.take_append_of_le_length h]

theorem frontLength_append {B : List Byte} (h : 3 ≤ B.length) (X : List Byte) : frontLength (B ++ X) = frontLength B := by
  rw [frontLength, halfAt_append h]

/-- A 16-bit read depends on the bytes from its offset on. -/
theorem halfAt_drop (S : List Byte) (o : Nat) : halfAt (S.drop o) 0 = halfAt S o := by
  simp [halfAt, u16le, u8, byteAt]

/-- The two bytes of a 16-bit value read are the bytes read, at any offset (R50). -/
theorem halfBytes_halfAt_append_drop {S : List Byte} {o : Nat} (h : o + 2 ≤ S.length) :
    halfBytes (halfAt S o) ++ S.drop (o + 2) = S.drop o := by
  have hlen : 2 ≤ (S.drop o).length := by rw [List.length_drop]; omega
  rw [← halfAt_drop, ← List.drop_drop]
  match S.drop o, hlen with
  | b0 :: b1 :: rest, _ => rw [halfBytes_halfAt]; rfl

/-- The length field written for a declared length and a flag is the one they were read from (R81, R95). -/
theorem lengthField_of_declared {raw : Half} {body : List Byte} (h : body.length = declaredLength raw) :
    lengthField (archivePending raw) body = raw := by
  apply BitVec.eq_of_toNat_eq
  have hraw := raw.isLt
  rw [declaredLength_eq] at h
  rw [lengthField_toNat _ (by omega), archivePending_eq, h]
  by_cases hflag : 32768 ≤ raw.toNat <;> simp [hflag] <;> omega

/-- A whole frame at the front of the bytes, written again, is the bytes it was read from (R80, R81). -/
theorem frameBytes_of_read {B : List Byte} (h : frontLength B + 5 ≤ B.length) :
    frameBytes (byteAt B 0) (archivePending (halfAt B 1)) (slice B 3 (frontLength B + 3)) (halfAt B (frontLength B + 3))
      ++ B.drop (frontLength B + 5) = B := by
  have hbody : (slice B 3 (frontLength B + 3)).length = frontLength B := by rw [slice_length]; omega
  have hfield := lengthField_of_declared hbody
  have hcrc : halfBytes (halfAt B (frontLength B + 3)) ++ B.drop (frontLength B + 5) = B.drop (frontLength B + 3) :=
    halfBytes_halfAt_append_drop (o := frontLength B + 3) (by omega)
  have hmid : slice B 3 (frontLength B + 3) ++ B.drop (frontLength B + 3) = B.drop 3 := by
    rw [slice, Nat.add_sub_cancel, Nat.add_comm, ← List.drop_drop, List.take_append_drop]
  have hhead : halfBytes (halfAt B 1) ++ B.drop 3 = B.drop 1 := halfBytes_halfAt_append_drop (o := 1) (by omega)
  simp only [frameBytes, frameHead, hfield, List.append_assoc, List.cons_append, hcrc, hmid, hhead]
  match B, h with
  | _ :: _, _ => rfl

/-- Everything the frame decoder can read: a whole frame, as the row of its header byte (R82, R97). -/
theorem decodeFrame_ok {B rest : List Byte} {i : Instr} (h : decodeFrame B = .ok (i, rest)) :
    frontLength B + 5 ≤ B.length ∧ rest = B.drop (frontLength B + 5)
      ∧ i = frameInstr (byteAt B 0) (archivePending (halfAt B 1)) (slice B 3 (frontLength B + 3))
          (halfAt B (frontLength B + 3)) := by
  unfold decodeFrame at h
  split at h
  · cases h
  · dsimp only at h
    split at h
    · cases h
    · next hwhole =>
      unfold frameInstr
      split at h
      · next hhdr => cases h; exact ⟨Nat.le_of_not_lt hwhole, rfl, (if_pos hhdr).symm⟩
      · next hhdr =>
        rw [if_neg hhdr]
        split at h
        · next hkeep => cases h; exact ⟨Nat.le_of_not_lt hwhole, rfl, (if_pos hkeep).symm⟩
        · next hkeep => cases h; exact ⟨Nat.le_of_not_lt hwhole, rfl, (if_neg hkeep).symm⟩

/-- Whatever its class, a frame row is written as the frame's bytes (R80). -/
theorem encode_frameInstr (hdr : Byte) (ap : Bool) (body : List Byte) (k : Half) :
    encode (frameInstr hdr ap body k) = frameBytes hdr ap body k := by
  unfold frameInstr
  split
  · next h => rw [h]; rfl
  · split
    · next h => rw [h]; rfl
    · rfl

theorem formatOf_frameInstr (hdr : Byte) (ap : Bool) (body : List Byte) (k : Half) :
    formatOf (frameInstr hdr ap body k) = some .frameHdr := by
  unfold frameInstr
  split
  · rfl
  · split <;> rfl

end Sys2Proof.Machine
end

section
/-! SUPPORT. The decoder and the encoder, format by format: an item decoded is written as the bytes it was read from, cut-off items
included (R50, R80 to R91). -/

namespace Sys2Proof.Machine
open Sys2Proof

/-- The item `i` and the bytes `rest` are all of `B`, and the item is of format `f`. -/
def WrittenAs (f : Format) (B : List Byte) (i : Instr) (rest : List Byte) : Prop :=
  encode i ++ rest = B ∧ formatOf i = some f

theorem decodeFrame_writtenAs {B rest : List Byte} {i : Instr} (h : decodeFrame B = .ok (i, rest)) :
    WrittenAs .frameHdr B i rest := by
  obtain ⟨hwhole, rfl, rfl⟩ := decodeFrame_ok h
  exact ⟨by rw [encode_frameInstr, frameBytes_of_read hwhole], formatOf_frameInstr _ _ _ _⟩

/-- A TAG8 item is its id and the value bytes that stand behind it; an escape, its length field and its block (R83). -/
theorem decodeTag8_writtenAs {reg : Registry} {B rest : List Byte} {i : Instr} (h : decodeTag8 reg B = .ok (i, rest)) :
    WrittenAs .tag8 B i rest := by
  cases B with
  | nil => cases h
  | cons t value =>
    have hvalue (w : Nat) : t :: value.take w ++ value.drop w = t :: value := by
      rw [List.cons_append, List.take_append_drop]
    simp only [decodeTag8] at h
    split at h
    · next hescape =>
      cases h
      refine ⟨?_, rfl⟩
      simp only [encode, hescape, List.append_assoc, List.cons_append, List.take_append_drop]
    · split at h
      · next himei => cases h; exact ⟨himei ▸ hvalue _, rfl⟩
      · split at h
        · next hstart => cases h; exact ⟨hstart ▸ hvalue _, rfl⟩
        · split at h <;> cases h <;> exact ⟨hvalue _, rfl⟩

/-- A TAG16 item is its id, low byte first, and the value bytes that stand behind it (R86). -/
theorem decodeTag16_writtenAs {reg : Registry} {B rest : List Byte} {i : Instr} (h : decodeTag16 reg B = .ok (i, rest)) :
    WrittenAs .tag16 B i rest := by
  unfold decodeTag16 at h
  split at h
  · next x0 x1 value =>
    have hvalue (w : Nat) : halfBytes (halfAt [x0, x1] 0) ++ value.take w ++ value.drop w = x0 :: x1 :: value := by
      rw [halfBytes_halfAt, List.append_assoc, List.take_append_drop]; rfl
    dsimp only at h
    split at h
    · next hmodbus => cases h; exact ⟨hmodbus ▸ hvalue _, rfl⟩
    · split at h <;> cases h <;> exact ⟨hvalue _, rfl⟩
  · cases h

/-- The bytes at the front, read one by one. -/
theorem map_byteAt_range {B : List Byte} {w : Nat} (h : w ≤ B.length) : (List.range w).map (byteAt B) = B.take w := by
  apply List.ext_getElem
  · simp [h]
  · intro j hj _
    have hlt : j < B.length := by simp at hj; omega
    simp [byteAt, hlt]

/-- The value bytes of a kind are as many as its width (R87). -/
theorem decodeKind_writtenAs {k : Kind} {B rest : List Byte} {i : Instr} (h : decodeKind k B = .ok (i, rest)) :
    WrittenAs (.kind k) B i rest := by
  unfold decodeKind at h
  split at h
  · cases h
  · next hlen =>
    have hwidth : k.width ≤ B.length := Nat.le_of_not_lt hlen
    have hread : (List.range k.width).map (byteAt B) ++ B.drop k.width = B := by
      rw [map_byteAt_range hwidth, List.take_append_drop]
    cases k with
    | fixedString n =>
      cases h
      have hn : (B.take n).length = n := List.length_take_of_le hwidth
      exact ⟨List.take_append_drop n B, by rw [formatOf, hn]⟩
    | uint8 | int8 | uint16 | int16 | uint32 | int32 | dateTimeSeconds | coordinates | speedDirection | statusBits | ioBitfield
    | modbusScaled => cases h; exact ⟨hread, rfl⟩

theorem decodeAck_writtenAs {B rest : List Byte} {i : Instr} (h : decodeAck B = .ok (i, rest)) :
    WrittenAs .ack B i rest := by
  unfold decodeAck at h
  split at h
  · split at h
    · next hfirst =>
      cases h
      exact ⟨by rw [encode, halfBytes_halfAt, hfirst]; rfl, rfl⟩
    · cases h
  · cases h

theorem decodeAckReject_writtenAs {B rest : List Byte} {i : Instr} (h : decodeAckReject B = .ok (i, rest)) :
    WrittenAs .ackReject B i rest := by
  unfold decodeAckReject at h
  split at h
  · next b0 b1 b2 left =>
    split at h
    · next hbytes =>
      cases h
      exact ⟨by rw [encode, ← hbytes]; rfl, rfl⟩
    · cases h
  · cases h

/-- Settles O2, format by format. -/
theorem decodeThenEncodeGivesBytes : Obligations.DecodeThenEncodeGivesBytes := by
  intro reg f B i rest h
  cases f with
  | frameHdr => exact decodeFrame_writtenAs h
  | tag8 => exact decodeTag8_writtenAs h
  | tag16 => exact decodeTag16_writtenAs h
  | kind k => exact decodeKind_writtenAs h
  | ack => exact decodeAck_writtenAs h
  | ackReject => exact decodeAckReject_writtenAs h

end Sys2Proof.Machine
end

section
/-! SUPPORT. What a frame step takes from the buffer, the extraction loop by its rounds, and bytes fed into it (R57, R61, R147, R252,
R255). -/

namespace Sys2Proof.Machine
open Sys2Proof

/-- Settles O46: result by result, with the drop TRY_EXTRACT names. -/
theorem frameStepConsumes : Obligations.FrameStepConsumes := by
  intro cfg reg c c' evs h
  rcases Session.frameStep_cases h with ⟨L, k, hr, rfl, -⟩ | ⟨rx, computed, T, hr, rfl, -⟩ | ⟨f, T, hr, rfl, -⟩ <;>
    simp only [hr]
  · obtain ⟨h3, -, -, rfl⟩ := tryExtract_badLength hr
    exact ⟨1, le_rfl, by omega, rfl, ⟨rfl, rfl⟩, rfl, rfl⟩
  · obtain ⟨-, rfl, hT, -⟩ := tryExtract_badChecksum hr
    exact ⟨_, by omega, hT, rfl, ⟨by rw [frontLength_eq], rfl⟩, rfl, rfl⟩
  · obtain ⟨-, rfl, hT, -⟩ := tryExtract_complete hr
    exact ⟨_, by omega, hT, rfl, by rw [frontLength_eq], rfl, rfl⟩

/-- A frame step leaves a shorter buffer, the end of the one before (R147). -/
theorem Session.frameStep_buf {cfg : Config} {reg : Registry} {c c' : Session} {evs : List Event}
    (h : c.frameStep cfg reg = some (c', evs)) : c'.buf.length < c.buf.length ∧ c'.buf <:+ c.buf := by
  obtain ⟨n, hpos, hn, hbuf, -⟩ := frameStepConsumes cfg reg c c' evs h
  rw [hbuf]
  exact ⟨by rw [List.length_drop]; omega, List.drop_suffix n c.buf⟩

/-- Induction along the extraction loop: a session that waits for more bytes, and one that makes a frame step. -/
theorem Session.drain_induction {cfg : Config} {reg : Registry} {motive : Session → Prop}
    (waits : ∀ c, c.frameStep cfg reg = none → motive c)
    (steps : ∀ c c' evs, c.frameStep cfg reg = some (c', evs) → motive c' → motive c) (c : Session) : motive c := by
  induction hn : c.buf.length using Nat.strong_induction_on generalizing c with
  | _ n ih =>
    cases hf : c.frameStep cfg reg with
    | none => exact waits c hf
    | some r =>
      obtain ⟨c', evs⟩ := r
      exact steps c c' evs hf (ih _ (hn ▸ (Session.frameStep_buf hf).1) c' rfl)

theorem drain_of_waiting {cfg : Config} {reg : Registry} {c : Session} (h : c.frameStep cfg reg = none) (fuel : Nat) :
    drain cfg reg fuel c = (c, []) := by
  cases fuel with
  | zero => rfl
  | succ fuel => simp [drain, h]

/-- Fuel beyond the buffer's length changes nothing (R147). -/
theorem drain_of_enough_fuel {cfg : Config} {reg : Registry} {fuel : Nat} {c : Session} (h : c.buf.length ≤ fuel) :
    drain cfg reg fuel c = drain cfg reg c.buf.length c := by
  induction c using Session.drain_induction (cfg := cfg) (reg := reg) generalizing fuel with
  | waits c hf => rw [drain_of_waiting hf, drain_of_waiting hf]
  | steps c c' evs hf ih =>
    have hlt := (Session.frameStep_buf hf).1
    obtain ⟨n, hn⟩ := Nat.exists_eq_add_one_of_ne_zero (Nat.ne_zero_of_lt hlt)
    obtain ⟨m, rfl⟩ := Nat.exists_eq_add_one_of_ne_zero (n := fuel) (by omega)
    rw [hn]
    simp only [drain, hf]
    rw [ih (fuel := m) (by omega), ih (fuel := n) (by omega)]

/-- The extraction loop of R255 run to its end. -/
def drained (cfg : Config) (reg : Registry) (c : Session) : Session × List Event := drain cfg reg c.buf.length c

theorem drained_of_waiting {cfg : Config} {reg : Registry} {c : Session} (h : c.frameStep cfg reg = none) :
    drained cfg reg c = (c, []) := drain_of_waiting h _

/-- One round of the loop. -/
theorem drained_of_frameStep {cfg : Config} {reg : Registry} {c c' : Session} {evs : List Event}
    (h : c.frameStep cfg reg = some (c', evs)) :
    drained cfg reg c = ((drained cfg reg c').1, evs ++ (drained cfg reg c').2) := by
  have hlt := (Session.frameStep_buf h).1
  obtain ⟨n, hn⟩ := Nat.exists_eq_add_one_of_ne_zero (Nat.ne_zero_of_lt hlt)
  simp only [drained, hn, drain, h]
  rw [drain_of_enough_fuel (c := c') (fuel := n) (by omega)]

/-- The loop ends where TRY_EXTRACT waits, with the end of the buffer it began with. -/
theorem drained_waits (cfg : Config) (reg : Registry) (c : Session) :
    tryExtract cfg.maxBodyLen (drained cfg reg c).1.buf = .incomplete ∧ (drained cfg reg c).1.buf <:+ c.buf := by
  induction c using Session.drain_induction (cfg := cfg) (reg := reg) with
  | waits c hf => rw [drained_of_waiting hf]; exact ⟨Session.frameStep_none.1 hf, List.suffix_rfl⟩
  | steps c c' evs hf ih =>
    rw [drained_of_frameStep hf]
    exact ⟨ih.1, ih.2.trans (Session.frameStep_buf hf).2⟩

/-- A buffer that waits is shorter than the longest frame (R60, R142, R143). -/
theorem length_lt_of_incomplete {max : Nat} {B : List Byte} (h : tryExtract max B = .incomplete) : B.length < max + 5 := by
  rcases tryExtract_incomplete_iff.1 h with h3 | ⟨hL, hpart⟩ <;> omega

/-- Settles O57: the loop ends waiting, and a buffer that waits is short. -/
theorem extractionLoopEndsInBounds : Obligations.ExtractionLoopEndsInBounds := by
  intro cfg reg c r
  obtain ⟨hwaits, hsuffix⟩ := drained_waits cfg reg c
  have hlen : r.1.buf.length < cfg.maxBodyLen + 5 := length_lt_of_incomplete hwaits
  refine ⟨hwaits, hlen, fun hlegal => hlen.trans_le ?_, hsuffix⟩
  simp only [Config.legal, Bool.and_eq_true, decide_eq_true_eq] at hlegal
  obtain ⟨⟨⟨⟨-, hcap⟩, -⟩, -⟩, -⟩ := hlegal
  exact hcap

/-- The frame read from the front of a buffer (R36). -/
def frontFrame (B : List Byte) : Frame :=
  { hdr := byteAt B 0, len := frontLength B, ap := archivePending (halfAt B 1), body := slice B 3 (frontLength B + 3),
    checksum := halfAt B (frontLength B + 3) }

theorem frontFrame_append {B : List Byte} (h : frontLength B + 5 ≤ B.length) (X : List Byte) :
    frontFrame (B ++ X) = frontFrame B := by
  have hfront := frontLength_append (B := B) (by omega) X
  simp only [frontFrame, hfront, byteAt_append (S := B) (o := 0) (by omega), halfAt_append (S := B) (o := 1) (by omega),
    slice_append (S := B) 3 (b := frontLength B + 3) (by omega),
    halfAt_append (S := B) (o := frontLength B + 3) (by omega)]

/-- TRY_EXTRACT on a whole frame within the limit: its checksum decides (R144, R145). -/
theorem tryExtract_of_whole {max : Nat} {B : List Byte} (hL : frontLength B ≤ max) (hwhole : frontLength B + 5 ≤ B.length) :
    tryExtract max B =
      if checksumOk (crc16 (B.take (frontLength B + 3))) (frontFrame B).checksum = false then
        .badChecksum (frontFrame B).checksum (crc16 (B.take (frontLength B + 3))) (frontLength B + 5)
      else .complete (frontFrame B) (frontLength B + 5) := by
  have h3 : ¬ B.length < 3 := by omega
  have hl : ¬ lengthOk max (frontLength B) = false := by simpa [lengthOk] using hL
  rw [tryExtract, if_neg h3]
  exact (if_neg hl).trans (if_neg (Nat.not_lt.2 hwhole))

/-- An answer of TRY_EXTRACT other than Incomplete stays when bytes follow (R148). -/
theorem tryExtract_append {max : Nat} {B : List Byte} (h : tryExtract max B ≠ .incomplete) (X : List Byte) :
    tryExtract max (B ++ X) = tryExtract max B := by
  rw [Ne, tryExtract_incomplete_iff, not_or, not_and, Nat.not_lt, Nat.not_lt] at h
  obtain ⟨h3, hwhole⟩ := h
  have hlen : B.length ≤ (B ++ X).length := by simp
  have hfront := frontLength_append h3 X
  rcases Nat.lt_or_ge max (frontLength B) with hbad | hL
  · rw [tryExtract_of_badLength h3 hbad, tryExtract_of_badLength (h3.trans hlen) (hfront ▸ hbad), hfront]
  · have hw : frontLength B + 5 ≤ B.length := hwhole hL
    rw [tryExtract_of_whole hL hw, tryExtract_of_whole (hfront ▸ hL) (hfront ▸ hw.trans hlen), hfront,
      frontFrame_append hw, List.take_append_of_le_length (by omega)]

/-- The session after the append of a FEED (R252). -/
def Session.fed (c : Session) (cfg : Config) (X : List Byte) (t : Nat) : Session :=
  ({ c with lastActivityAt := t }.bufAppend X).settle cfg

theorem feedDrained_eq (cfg : Config) (reg : Registry) (c : Session) (X : List Byte) (t : Nat) :
    feedDrained cfg reg c X t = drained cfg reg (c.fed cfg X t) := rfl

/-- Two appends are one, with the second's timestamp. -/
theorem Session.fed_fed (c : Session) (cfg : Config) (X Y : List Byte) (t₁ t₂ : Nat) :
    (c.fed cfg X t₁).fed cfg Y t₂ = c.fed cfg (X ++ Y) t₂ := by
  simp [Session.fed, Session.settle, Session.bufAppend]

/-- The bytes fed stand behind those a frame step drops. -/
theorem Session.fed_bufDrop (c : Session) (cfg : Config) (X : List Byte) (t : Nat) {n : Nat} (h : n ≤ c.buf.length) :
    ((c.fed cfg X t).bufDrop n).settle cfg = ((c.bufDrop n).settle cfg).fed cfg X t := by
  simp [Session.fed, Session.settle, Session.bufAppend, Session.bufDrop, List.drop_append_of_le_length h]

/-- A frame step that is due is the same before and after an append (R61). -/
theorem Session.frameStep_fed {cfg : Config} {reg : Registry} {c c' : Session} {evs : List Event}
    (h : c.frameStep cfg reg = some (c', evs)) (X : List Byte) (t : Nat) :
    (c.fed cfg X t).frameStep cfg reg = some (c'.fed cfg X t, evs) := by
  have hdefined : tryExtract cfg.maxBodyLen c.buf ≠ .incomplete := fun hwaits => by
    rw [Session.frameStep_none.2 hwaits] at h; cases h
  have hanswer : tryExtract cfg.maxBodyLen (c.fed cfg X t).buf = tryExtract cfg.maxBodyLen c.buf :=
    tryExtract_append hdefined X
  rcases Session.frameStep_cases h with ⟨L, k, hr, rfl, rfl⟩ | ⟨rx, computed, T, hr, rfl, rfl⟩ | ⟨f, T, hr, rfl, rfl⟩ <;>
    rw [hr] at hanswer
  · obtain ⟨h3, -, -, rfl⟩ := tryExtract_badLength hr
    have hfirst : byteAt (c.fed cfg X t).buf 0 = byteAt c.buf 0 := byteAt_append (S := c.buf) (by omega) X
    rw [Session.frameStep_of_badLength hanswer, hfirst, Session.fed_bufDrop c cfg X t (by omega)]
  · obtain ⟨-, -, hT, -⟩ := tryExtract_badChecksum hr
    simp only [Session.frameStep, hanswer, Session.fed_bufDrop c cfg X t hT]
    rfl
  · obtain ⟨-, -, hT, -⟩ := tryExtract_complete hr
    simp only [Session.frameStep, hanswer, Session.fed_bufDrop c cfg X t hT]
    rfl

/-- The loop on a buffer with bytes fed behind it: the loop on the buffer, and then on what is left of it with these bytes. -/
theorem drained_fed (cfg : Config) (reg : Registry) (c : Session) (X : List Byte) (t : Nat) :
    let first := drained cfg reg c
    let second := drained cfg reg (first.1.fed cfg X t)
    drained cfg reg (c.fed cfg X t) = (second.1, first.2 ++ second.2) := by
  induction c using Session.drain_induction (cfg := cfg) (reg := reg) with
  | waits c hf => simp [drained_of_waiting hf]
  | steps c c' evs hf ih =>
    rw [drained_of_frameStep (Session.frameStep_fed hf X t), ih]
    simp [drained_of_frameStep hf]

/-- Settles O58: the two chunks together are the second fed behind the first. -/
theorem fragmentationChangesNothing : Obligations.FragmentationChangesNothing := by
  intro cfg reg c chunk₁ chunk₂ t₁ t₂ first second
  rw [feedDrained_eq, ← Session.fed_fed c cfg chunk₁ chunk₂ t₁ t₂]
  exact drained_fed cfg reg (c.fed cfg chunk₁ t₁) chunk₂ t₂

end Sys2Proof.Machine
end

section
/-! SUPPORT. A session's event list and its TX stream after events are logged, and the acknowledgements handed to it (R34, R35, R64,
R235, R236). -/

namespace Sys2Proof.Machine
open Sys2Proof

/-- Events logged for a session join its own list and no other's (R35). -/
theorem State.eventsOf_of_logged {s t : State} {c : Session} {evs : List Event} (h : t.log = s.log ++ c.logged evs) (n : Nat) :
    t.eventsOf n = s.eventsOf n ++ if n = c.serial then evs else [] := by
  rw [State.eventsOf, h, List.filter_append, List.map_append, State.eventsOf]
  congr 1
  by_cases hn : n = c.serial
  · simp [Session.logged, hn, List.filter_map, Function.comp_def]
  · simp [Session.logged, hn, Ne.symm hn]

/-- Their bytes join its own TX stream and no other's (R64). -/
theorem State.tx_of_logged {s t : State} {c : Session} {evs : List Event} (h : t.log = s.log ++ c.logged evs) (n : Nat) :
    t.tx n = s.tx n ++ if n = c.serial then evs.flatMap Event.txBytes else [] := by
  rw [State.tx, State.eventsOf_of_logged h, List.flatMap_append, State.tx]
  split <;> rfl

theorem State.sendAck_of_open {s : State} {c : Session} (h : s.curSession = some c) (bytes : List Byte) :
    s.sendAck bytes = .next ({ s with log := s.log ++ c.logged [.ackRequired bytes] }.done (.ack bytes)
      [.ackRequired bytes]) := by
  rw [State.sendAck, h]; rfl

theorem State.sendAck_of_closed {s : State} (h : s.curSession = none) (bytes : List Byte) :
    s.sendAck bytes = .refused .noSession := by
  rw [State.sendAck, h]

/-- Settles O38: both rows hand their bytes over, and one logged acknowledgement is those bytes on the stream. -/
theorem acknowledgementsReachTheWire : Obligations.AcknowledgementsReachTheWire := by
  intro k s
  refine ⟨?_, fun hcur => ⟨State.sendAck_of_closed hcur _, State.sendAck_of_closed hcur _⟩⟩
  intro c hcur sent
  refine ⟨State.sendAck_of_open hcur _, State.sendAck_of_open hcur _, fun bytes n => ?_⟩
  have hlog : (sent bytes).log = s.log ++ c.logged [.ackRequired bytes] := rfl
  have hbytes : [Event.ackRequired bytes].flatMap Event.txBytes = bytes := by simp [Event.txBytes]
  rw [State.tx_of_logged hlog, hbytes]

end Sys2Proof.Machine
end

section
/-! SUPPORT. Who moves, and what a session's own step does: the frame step of its context, or the end of its FEED; nothing of any
other session (R62, R63, R65, R252, R260, R263, R265). -/

namespace Sys2Proof.Machine
open Sys2Proof

theorem Session.isDue_eq_false_iff {c : Session} :
    c.isDue = false ↔ c.phase ≠ .hasCompleteFrames ∧ c.phase ≠ .idle := by
  simp [Session.isDue]

/-- The oracle can only name somebody: the block waits only where the default finds nobody either (log entry 8). -/
theorem State.defaultTurn_none_of_pick_none {s : State} (h : s.pick = none) : s.defaultTurn = none := by
  unfold State.pick at h
  split at h
  · split at h
    · cases h
    · exact h
  · exact h

/-- The block waits exactly when no session, no host operation and no bench entry is due (R316). -/
theorem State.pick_none_iff {s : State} :
    s.pick = none ↔ s.queue = [] ∧ s.bench = [] ∧ ∀ c ∈ s.ctxs, c.phase ≠ .hasCompleteFrames ∧ c.phase ≠ .idle := by
  constructor
  · intro h
    have hdefault := State.defaultTurn_none_of_pick_none h
    rcases s.defaultTurn_cases with ⟨k, hk, -⟩ | ⟨hdue, ⟨hk, -⟩ | ⟨-, hk, -⟩ | ⟨hqueue, hbench, -⟩⟩
    · simp [hk] at hdefault
    · simp [hk] at hdefault
    · simp [hk] at hdefault
    · exact ⟨hqueue, hbench, fun c hc => Session.isDue_eq_false_iff.1 (hdue c hc)⟩
  · rintro ⟨hqueue, hbench, hctxs⟩
    cases hpick : s.pick with
    | none => rfl
    | some turn =>
      cases turn with
      | host => exact absurd hqueue (State.pick_host hpick)
      | bench => exact absurd hbench (State.pick_bench hpick)
      | session k =>
        obtain ⟨c, hc, hdue⟩ := State.pick_session hpick
        obtain ⟨hframes, hidle⟩ := hctxs c (List.mem_of_getElem? hc)
        exact absurd hdue (not_or.2 ⟨hframes, hidle⟩)

/-- Settles O5: who moves can move, and where nobody moves nothing is due. -/
theorem somebodyMovesWheneverSomethingIsDue : Obligations.SomebodyMovesWheneverSomethingIsDue := fun _ =>
  ⟨State.pick_none_iff, State.pick_host, State.pick_bench, fun _ => State.pick_session⟩

/-- The stall test of R62: a limit is set, and more bytes than that are buffered. -/
theorem stalled_iff {cfg : Config} {buf : List Byte} :
    stalled cfg buf = true ↔ ∃ m, cfg.stallLimit = some m ∧ m < buf.length := by
  unfold stalled
  split
  · next m hm => simp [hm]
  · next hnone => simp [hnone]

theorem State.endFeed_of_calm {s : State} {c : Session} (h : stalled s.cfg c.buf = false) (k : Nat) :
    s.endFeed k c = s.setCtx k { c with phase := .awaitingData } := by
  simp [State.endFeed, h]

theorem State.endFeed_of_stalled {s : State} {c : Session} (h : stalled s.cfg c.buf = true) (k : Nat) :
    s.endFeed k c = s.closeContext k c .stallLimit := by
  simp [State.endFeed, h]

/-- Settles O53: the session's step in Idle is the end of its FEED, and the stall test decides. -/
theorem endOfFeedTestsTheStallLimit : Obligations.EndOfFeedTestsTheStallLimit := by
  intro s k c hpick hc hidle
  rw [step_session_idle hpick hc hidle]
  refine ⟨fun hlimit => ?calm, fun m hm hlong => ?stalls⟩
  case calm =>
    have hcalm : stalled s.cfg c.buf = false := by
      rw [Bool.eq_false_iff, Ne, stalled_iff]
      rintro ⟨m, hm, hlong⟩
      exact Nat.not_lt.2 (hlimit m hm) hlong
    rw [State.endFeed_of_calm (s := { s with sched := s.sched.tail }) hcalm]
    rfl
  case stalls =>
    rw [State.endFeed_of_stalled (s := { s with sched := s.sched.tail }) (stalled_iff.2 ⟨m, hm, hlong⟩)]
    exact ⟨_, _, rfl, rfl, rfl, rfl, rfl, rfl, rfl, rfl, rfl, rfl, rfl⟩

/-- Between two steps a due session is the one its cid names (R25). -/
theorem State.Inv.findCtx_due {s : State} (h : s.Inv) {k : Nat} {c : Session} (hc : s.ctxs[k]? = some c)
    (hdue : c.phase = .hasCompleteFrames) : s.findCtx duePhase c.cid = some (k, c) := by
  obtain ⟨-, -, -, -, -, -, hapart⟩ := (State.inv_iff s).1 h
  cases hf : s.findCtx duePhase c.cid with
  | none => exact absurd rfl (State.findCtx_none.1 hf c (List.mem_of_getElem? hc) (by simp [hdue, duePhase]))
  | some found =>
    obtain ⟨j, d⟩ := found
    obtain ⟨hd, hphase, hcid⟩ := State.findCtx_some hf
    have hddue : d.phase = .hasCompleteFrames := by simpa [duePhase] using hphase
    by_cases hjk : j = k
    · subst hjk
      rw [hc, Option.some.injEq] at hd
      rw [hd]
    · obtain ⟨hne, -⟩ := apart_of_ne hapart hd hc hjk (Session.isOpen_of_phase hddue (by decide))
        (Session.isOpen_of_phase hdue (by decide))
      exact absurd hcid hne

/-- The step of a due session is its context's frame step, by the row of the frame at the front of its buffer or, where no whole frame
stands there, by FRAME_STEP (R255, R256). -/
theorem step_session_due {s : State} {k : Nat} {c : Session} (h : s.Inv) (hpick : s.pick = some (.session k))
    (hc : s.ctxs[k]? = some c) (hdue : c.phase = .hasCompleteFrames) :
    step s = { s with sched := s.sched.tail, cur := k }.frameStepAt k c := by
  cases hd : decode s.reg .frameHdr c.buf with
  | error e =>
    have hfind : { s with sched := s.sched.tail, cur := k }.findCtx duePhase c.cid = some (k, c) := h.findCtx_due hc hdue
    rw [step_session_frameStep hpick hc hdue hd]
    change execFrameStep c.cid _ = _
    rw [execFrameStep, hfind]
  | ok r =>
    obtain ⟨i, left⟩ := r
    obtain ⟨hwhole, -, rfl⟩ := decodeFrame_ok hd
    rw [step_session_frame hpick hc hdue hd, exec_frameInstr]
    exact State.frameRow_of_front (s := { s with sched := s.sched.tail, cur := k }) hc hdue ⟨_, frameBytes_of_read hwhole⟩

/-- Everything a session's own step does: its context is written, its events are logged, an entry of the oracle is used up. -/
theorem session_turn {s t : State} {k : Nat} {c : Session} (hinv : s.Inv) (hpick : s.pick = some (.session k))
    (hc : s.ctxs[k]? = some c) (h : step s = .next t) :
    ∃ c' evs, t.ctxs = s.ctxs.set k c' ∧ t.log = s.log ++ c.logged evs
      ∧ { s with sched := s.sched.tail }.SameSetup t := by
  obtain ⟨d, hd, hdue | hidle⟩ := State.pick_session hpick <;> rw [hc, Option.some.injEq] at hd <;> subst hd
  · rw [step_session_due hinv hpick hc hdue] at h
    obtain ⟨c', evs, -, rfl⟩ := State.frameStepAt_next h
    exact ⟨c', evs, rfl, rfl, State.sameSetup_refl _⟩
  · rw [step_session_idle hpick hc hidle] at h
    cases h
    rcases { s with sched := s.sched.tail }.endFeed_cases k c with ⟨-, he⟩ | ⟨-, he⟩ <;> rw [he]
    · exact ⟨_, [.connectionClosed .stallLimit], rfl, rfl, State.sameSetup_refl _⟩
    · exact ⟨_, [], rfl, (List.append_nil _).symm, State.sameSetup_refl _⟩

/-- Settles O11: a session's step writes one context and logs events of one number. -/
theorem sessionTurnTouchesOnlyItsContext : Obligations.SessionTurnTouchesOnlyItsContext := by
  intro s t k c hinv hpick hc h
  obtain ⟨c', evs, hctxs, hlog, hcfg, hreg, hqueue, hbench, -, hslots, hopened⟩ := session_turn hinv hpick hc h
  refine ⟨fun j hj => ?_, ?_, ⟨evs, hlog⟩, fun n hn => ?_, hcfg, hreg, hqueue, hbench, hslots, hopened⟩
  · rw [hctxs, List.getElem?_set_ne hj.symm]
  · rw [hctxs, List.length_set]
  · rw [State.eventsOf_of_logged hlog, if_neg hn, List.append_nil]

/-- A due session's step by what `Session.frameStep`, which reads that session, the parameters and the registry, answers. -/
theorem session_frame_turn {s t : State} {k : Nat} {c : Session} (hinv : s.Inv) (hpick : s.pick = some (.session k))
    (hc : s.ctxs[k]? = some c) (hdue : c.phase = .hasCompleteFrames) (h : step s = .next t) :
    ∃ c' evs, c.frameStep s.cfg s.reg = some (c', evs) ∧ t.ctxs[k]? = some c'
      ∧ t.log.drop s.log.length = c.logged evs := by
  rw [step_session_due hinv hpick hc hdue] at h
  obtain ⟨c', evs, hf, rfl⟩ := State.frameStepAt_next h
  obtain ⟨hk, -⟩ := List.getElem?_eq_some_iff.1 hc
  exact ⟨c', evs, hf, List.getElem?_set_self hk, List.drop_left⟩

/-- Settles O12: both runs make the frame step of the same session under the same parameters and registry. -/
theorem frameStepDependsOnItsSessionOnly : Obligations.FrameStepDependsOnItsSessionOnly := by
  intro s₁ s₂ t₁ t₂ k c hinv₁ hinv₂ hpick₁ hpick₂ hcfg hreg hc₁ hc₂ hdue h₁ h₂
  obtain ⟨c₁, evs₁, hf₁, hctx₁, hlog₁⟩ := session_frame_turn hinv₁ hpick₁ hc₁ hdue h₁
  obtain ⟨c₂, evs₂, hf₂, hctx₂, hlog₂⟩ := session_frame_turn hinv₂ hpick₂ hc₂ hdue h₂
  rw [hcfg, hreg, hf₂] at hf₁
  cases hf₁
  exact ⟨hctx₁.trans hctx₂.symm, hlog₁.trans hlog₂.symm⟩

end Sys2Proof.Machine
end

section
/-! SUPPORT. A written frame, part by part: what stands where in its bytes, whatever follows them; with it, what the framer and the
frame decoder read of it (R80, R81, R95). -/

namespace Sys2Proof.Machine
open Sys2Proof

theorem frameHead_length (hdr : Byte) (ap : Bool) (body : List Byte) : (frameHead hdr ap body).length = body.length + 3 := by
  simp [frameHead, halfBytes]

/-- A written frame begins with the part its checksum covers. -/
theorem take_frameBytes_head (hdr : Byte) (ap : Bool) (body : List Byte) (k : Half) (X : List Byte) :
    (frameBytes hdr ap body k ++ X).take (body.length + 3) = frameHead hdr ap body := by
  rw [frameBytes, List.append_assoc, ← frameHead_length hdr ap body, List.take_left]

theorem drop_frameBytes_head (hdr : Byte) (ap : Bool) (body : List Byte) (k : Half) (X : List Byte) :
    (frameBytes hdr ap body k ++ X).drop (body.length + 3) = halfBytes k ++ X := by
  rw [frameBytes, List.append_assoc, ← frameHead_length hdr ap body, List.drop_left]

theorem drop_frameBytes (hdr : Byte) (ap : Bool) (body : List Byte) (k : Half) (X : List Byte) :
    (frameBytes hdr ap body k ++ X).drop (body.length + 5) = X := by
  rw [← frameBytes_length hdr ap body k, List.drop_left]

/-- Behind header and length field stands the body. -/
theorem slice_frameBytes_body (hdr : Byte) (ap : Bool) (body : List Byte) (k : Half) (X : List Byte) :
    slice (frameBytes hdr ap body k ++ X) 3 (body.length + 3) = body := by
  rw [slice, ← List.drop_take, take_frameBytes_head]
  rfl

/-- Behind the body stands the checksum field. -/
theorem halfAt_frameBytes_checksum (hdr : Byte) (ap : Bool) (body : List Byte) (k : Half) (X : List Byte) :
    halfAt (frameBytes hdr ap body k ++ X) (body.length + 3) = k := by
  rw [← halfAt_drop, drop_frameBytes_head, halfAt_halfBytes]

/-- The frame read from the front of a written frame's bytes is the one that was written (R36). -/
theorem frontFrame_frameBytes (hdr : Byte) (ap : Bool) {body : List Byte} (h : body.length ≤ 32767) (k : Half)
    (X : List Byte) : frontFrame (frameBytes hdr ap body k ++ X)
      = { hdr := hdr, len := body.length, ap := ap, body := body, checksum := k } := by
  simp only [frontFrame, frontLength_frameBytes hdr ap h, byteAt_frameBytes_zero, halfAt_frameBytes_one,
    archivePending_lengthField ap h, slice_frameBytes_body, halfAt_frameBytes_checksum]

/-- TRY_EXTRACT on a written frame: its checksum field against its checksum (R144, R145). -/
theorem tryExtract_frameBytes {max : Nat} (hdr : Byte) (ap : Bool) {body : List Byte} (hbody : body.length ≤ max)
    (hmax : max ≤ 32767) (k : Half) (X : List Byte) : tryExtract max (frameBytes hdr ap body k ++ X) =
      if checksumOk (crc16 (frameHead hdr ap body)) k = false then
        .badChecksum k (crc16 (frameHead hdr ap body)) (body.length + 5)
      else .complete { hdr := hdr, len := body.length, ap := ap, body := body, checksum := k } (body.length + 5) := by
  have hfits := hbody.trans hmax
  have hfront := frontLength_frameBytes hdr ap hfits k X
  have hwhole : body.length + 5 ≤ (frameBytes hdr ap body k ++ X).length := by
    rw [List.length_append, frameBytes_length]; exact Nat.le_add_right _ _
  rw [tryExtract_of_whole (by rwa [hfront]) (by rwa [hfront]), hfront, take_frameBytes_head,
    frontFrame_frameBytes hdr ap hfits]

/-- Settles O19: with the checksum field equal to the checksum, and different from it. -/
theorem writtenFrameIsExtracted : Obligations.WrittenFrameIsExtracted := by
  intro max hdr ap body X k hbody hmax
  rw [tryExtract_frameBytes hdr ap hbody hmax]
  refine ⟨fun hk => if_neg ?_, fun hk => if_pos ?_⟩
  · simp [checksumOk, hk]
  · simpa [checksumOk] using Ne.symm hk

end Sys2Proof.Machine
end

section
/-! SUPPORT. The encoder and the decoder, format by format: the bytes of a well-formed item, whatever follows them, are decoded to that
item (R80 to R91). -/

namespace Sys2Proof.Machine
open Sys2Proof

/-- A written frame is decoded to the row of its header byte (R82). -/
theorem decodeFrame_frameBytes (hdr : Byte) (ap : Bool) {body : List Byte} (h : body.length ≤ 32767) (k : Half)
    (rest : List Byte) : decodeFrame (frameBytes hdr ap body k ++ rest) = .ok (frameInstr hdr ap body k, rest) := by
  have hlength : (frameBytes hdr ap body k ++ rest).length = body.length + 5 + rest.length := by
    rw [List.length_append, frameBytes_length]
  have h3 : ¬ (frameBytes hdr ap body k ++ rest).length < 3 := by omega
  have hwhole : ¬ (frameBytes hdr ap body k ++ rest).length < body.length + 5 := by omega
  simp only [decodeFrame, h3, if_false, halfAt_frameBytes_one, declaredLength_lengthField ap h, hwhole, byteAt_frameBytes_zero,
    archivePending_lengthField ap h, slice_frameBytes_body, halfAt_frameBytes_checksum, drop_frameBytes, frameInstr]
  split
  · rfl
  · split <;> rfl

theorem decodeFrame_encode {cfg : Config} {reg : Registry} {i : Instr} (hwf : i.wellFormed cfg reg = true)
    (hf : formatOf i = some .frameHdr) (rest : List Byte) : decodeFrame (encode i ++ rest) = .ok (i, rest) := by
  cases i with
  | telemetry ap body k | keepalive ap body k =>
    simp only [Instr.wellFormed, bodyFits, decide_eq_true_eq] at hwf
    exact decodeFrame_frameBytes _ ap hwf k rest
  | extension hdr ap body k =>
    simp only [Instr.wellFormed, bodyFits, Bool.and_eq_true, decide_eq_true_eq, bne_iff_ne] at hwf
    obtain ⟨⟨hfits, htelemetry⟩, hkeepalive⟩ := hwf
    rw [encode, decodeFrame_frameBytes hdr ap hfits, frameInstr, if_neg htelemetry, if_neg hkeepalive]
  | _ => cases hf

/-- The row of a main tag other than the escape, with its value bytes (R83, R97). -/
def mainInstr (reg : Registry) (t : Byte) (value : List Byte) : Instr :=
  if t = tagIMEI then .tagImei value
  else if t = tagRECSTART then .tagRecstart value
  else if (reg.mainDef t).isSome then .tagKnown t value
  else .tagUnknown t value

/-- A main tag's id and all its value bytes are decoded to the tag's row (R83). -/
theorem decodeTag8_value {reg : Registry} {t : Byte} (ht : t ≠ tagESCAPE) {value : List Byte}
    (hlen : value.length = reg.mainWidth t) (rest : List Byte) :
    decodeTag8 reg (t :: value ++ rest) = .ok (mainInstr reg t value, rest) := by
  simp only [List.cons_append, decodeTag8, if_neg ht, ← hlen, List.take_left, List.drop_left, mainInstr]
  split
  · rfl
  · split
    · rfl
    · split <;> rfl

theorem u16le_append {S : List Byte} {o : Nat} (h : o + 1 < S.length) (X : List Byte) : u16le (S ++ X) o = u16le S o := by
  rw [← halfAt_toNat, halfAt_append h, halfAt_toNat]

/-- An escape, its length field and as many bytes as it declares are decoded to the escape's row (R83, R85). -/
theorem decodeTag8_escape (reg : Registry) {len items : List Byte} (hlen : len.length = 2)
    (hitems : items.length = u16le len 0) (rest : List Byte) :
    decodeTag8 reg (tagESCAPE :: len ++ items ++ rest) = .ok (.tagEscape len items, rest) := by
  have hcount : u16le (len ++ (items ++ rest)) 0 = items.length := by rw [u16le_append (by omega), hitems]
  simp only [List.cons_append, List.append_assoc, decodeTag8, if_true, hcount, List.take_left' hlen, List.drop_left' hlen,
    List.take_left, List.drop_left]

theorem decodeTag8_encode {cfg : Config} {reg : Registry} {i : Instr} (hwf : i.wellFormed cfg reg = true)
    (hf : formatOf i = some .tag8) (rest : List Byte) : decodeTag8 reg (encode i ++ rest) = .ok (i, rest) := by
  cases i with
  | tagEscape len items =>
    simp only [Instr.wellFormed, Bool.and_eq_true, decide_eq_true_eq] at hwf
    obtain ⟨hlen, hitems⟩ := hwf
    exact decodeTag8_escape reg hlen hitems rest
  | tagImei value | tagRecstart value =>
    simp only [Instr.wellFormed, decide_eq_true_eq] at hwf
    exact decodeTag8_value (by decide) hwf rest
  | tagKnown t value =>
    simp only [Instr.wellFormed, Bool.and_eq_true, decide_eq_true_eq, bne_iff_ne] at hwf
    obtain ⟨⟨⟨⟨hescape, himei⟩, hstart⟩, hknown⟩, hlen⟩ := hwf
    rw [encode, decodeTag8_value hescape hlen, mainInstr, if_neg himei, if_neg hstart, if_pos hknown]
  | tagUnknown t skipped =>
    simp only [Instr.wellFormed, Bool.and_eq_true, decide_eq_true_eq, bne_iff_ne, Option.isNone_iff_eq_none] at hwf
    obtain ⟨⟨⟨⟨hescape, himei⟩, hstart⟩, hunknown⟩, hlen⟩ := hwf
    have hwidth : skipped.length = reg.mainWidth t := by rw [hlen, Registry.mainWidth, hunknown]
    rw [encode, decodeTag8_value hescape hwidth, mainInstr, if_neg himei, if_neg hstart, hunknown]
    rfl
  | _ => cases hf

/-- The row of an extended tag, with its value bytes (R86, R97). -/
def extInstr (reg : Registry) (x : Half) (value : List Byte) : Instr :=
  if x = 1 then .xtagModbus value
  else if (reg.extDef x).isSome then .xtagKnown x value
  else .xtagUnknown x value

/-- The two bytes of a 16-bit value, on their own, read as it (R50). -/
theorem halfAt_lo8_hi8 (v : Half) : halfAt [lo8 v, hi8 v] 0 = v := halfAt_halfBytes v []

/-- An extended tag's id and all its value bytes are decoded to the tag's row (R86). -/
theorem decodeTag16_value {reg : Registry} {x : Half} {value : List Byte} (hlen : value.length = reg.extWidth x)
    (rest : List Byte) : decodeTag16 reg (halfBytes x ++ value ++ rest) = .ok (extInstr reg x value, rest) := by
  simp only [halfBytes, List.cons_append, List.nil_append, decodeTag16, halfAt_lo8_hi8, ← hlen, List.take_left, List.drop_left,
    extInstr]
  split
  · rfl
  · split <;> rfl

theorem decodeTag16_encode {cfg : Config} {reg : Registry} {i : Instr} (hwf : i.wellFormed cfg reg = true)
    (hf : formatOf i = some .tag16) (rest : List Byte) : decodeTag16 reg (encode i ++ rest) = .ok (i, rest) := by
  cases i with
  | xtagModbus value =>
    simp only [Instr.wellFormed, decide_eq_true_eq] at hwf
    rw [encode, decodeTag16_value hwf, extInstr, if_pos rfl]
  | xtagKnown x value =>
    simp only [Instr.wellFormed, Bool.and_eq_true, decide_eq_true_eq, bne_iff_ne] at hwf
    obtain ⟨⟨hmodbus, hknown⟩, hlen⟩ := hwf
    rw [encode, decodeTag16_value hlen, extInstr, if_neg hmodbus, if_pos hknown]
  | xtagUnknown x skipped =>
    simp only [Instr.wellFormed, Bool.and_eq_true, decide_eq_true_eq, bne_iff_ne, Option.isNone_iff_eq_none] at hwf
    obtain ⟨⟨hmodbus, hunknown⟩, hlen⟩ := hwf
    have hwidth : skipped.length = reg.extWidth x := by rw [hlen, Registry.extWidth, hunknown]
    rw [encode, decodeTag16_value hwidth, extInstr, if_neg hmodbus, hunknown]
    rfl
  | _ => cases hf

/-- The value bytes of a kind are as many as the decoder takes, one operand each, or all of a string's (R87). -/
theorem decodeKind_encode {i : Instr} {k : Kind} (hf : formatOf i = some (.kind k)) (rest : List Byte) :
    decodeKind k (encode i ++ rest) = .ok (i, rest) := by
  cases i with
  | kindFixedString v =>
    cases hf
    simp [decodeKind, encode, Kind.width]
  | kindUint8 | kindInt8 | kindUint16 | kindInt16 | kindUint32 | kindInt32 | kindDateTimeSeconds | kindCoordinates
  | kindSpeedDirection | kindStatusBits | kindIoBitfield | kindModbusScaled =>
    cases hf
    rw [decodeKind, if_neg (by simp [encode, Kind.width])]
    rfl
  | _ => cases hf

theorem decodeAck_encode {i : Instr} (hf : formatOf i = some .ack) (rest : List Byte) :
    decodeAck (encode i ++ rest) = .ok (i, rest) := by
  cases i with
  | ackOk k => simp only [encode, halfBytes, List.cons_append, List.nil_append, decodeAck, if_true, halfAt_lo8_hi8]
  | _ => cases hf

theorem decodeAckReject_encode {i : Instr} (hf : formatOf i = some .ackReject) (rest : List Byte) :
    decodeAckReject (encode i ++ rest) = .ok (i, rest) := by
  cases i with
  | ackReject => rfl
  | _ => cases hf

/-- Settles O1, format by format. -/
theorem encodeThenDecodeGivesItem : Obligations.EncodeThenDecodeGivesItem := by
  intro cfg reg i f rest hwf hf
  cases f with
  | frameHdr => exact decodeFrame_encode hwf hf rest
  | tag8 => exact decodeTag8_encode hwf hf rest
  | tag16 => exact decodeTag16_encode hwf hf rest
  | kind k => exact decodeKind_encode hf rest
  | ack => exact decodeAck_encode hf rest
  | ackReject => exact decodeAckReject_encode hf rest

/-- Settles O3: the decoder, run on each word. -/
theorem writtenWordsDecode : Obligations.WrittenWordsDecode :=
  ⟨by decide, by decide, by decide, by decide, by decide⟩

end Sys2Proof.Machine
end

section
/-! SUPPORT. A segment written as whole known items: what one such item adds, and with it the loops of R180 and R195 over a list of
them (R83, R85, R86, R183, R195, R201). -/

namespace Sys2Proof.Machine
open Sys2Proof

/-- What an item puts on the wire: its id, with the key space, and its value bytes. -/
def Entry.written (e : Entry) : TagId × List Byte := (e.id, e.raw)

/-- A main tag the registry knows, with as many value bytes as its kind has (R83). -/
def WholeMain (reg : Registry) (a : Byte × List Byte) : Prop :=
  a.1 ≠ tagESCAPE ∧ ∃ f, reg.mainDef a.1 = some f ∧ a.2.length = f.kind.width

/-- An extended tag the registry knows, with as many value bytes as its kind has (R86). -/
def WholeExt (reg : Registry) (a : Half × List Byte) : Prop :=
  ∃ f, reg.extDef a.1 = some f ∧ a.2.length = f.kind.width

/-- The bytes of main items, one behind the other. -/
def mainBytes (main : List (Byte × List Byte)) : List Byte := main.flatMap fun a => a.1 :: a.2

/-- The bytes of extended items, one behind the other. -/
def extBytes (ext : List (Half × List Byte)) : List Byte := ext.flatMap fun a => lo8 a.1 :: hi8 a.1 :: a.2

theorem mainBytes_cons (a : Byte × List Byte) (main : List (Byte × List Byte)) (rest : List Byte) :
    mainBytes (a :: main) ++ rest = a.1 :: (a.2 ++ (mainBytes main ++ rest)) := by
  simp [mainBytes]

theorem extBytes_cons (a : Half × List Byte) (ext : List (Half × List Byte)) :
    extBytes (a :: ext) = lo8 a.1 :: hi8 a.1 :: (a.2 ++ extBytes ext) := by
  simp [extBytes]

/-- An item takes at least one byte. -/
theorem length_le_mainBytes (main : List (Byte × List Byte)) : main.length ≤ (mainBytes main).length := by
  induction main with
  | nil => exact Nat.le_refl _
  | cons a main ih =>
    have hcons := congrArg List.length (mainBytes_cons a main [])
    simp only [List.append_nil, List.length_cons, List.length_append] at hcons ⊢
    omega

theorem length_le_extBytes (ext : List (Half × List Byte)) : ext.length ≤ (extBytes ext).length := by
  induction ext with
  | nil => exact Nat.le_refl _
  | cons a ext ih =>
    rw [extBytes_cons]
    simp only [List.length_cons, List.length_append]
    omega

theorem extLoop_nil (reg : Registry) (fuel p : Nat) (b : Blk) : extLoop reg fuel [] p b = b := by
  cases fuel <;> rfl

/-- The round of a whole known extended item: an entry with its id and its bytes, no event, and the items behind it are left (R195). -/
theorem extLoop_whole {reg : Registry} {a : Half × List Byte} (ha : WholeExt reg a) (fuel : Nat) (rest : List Byte) (p : Nat)
    (b : Blk) : ∃ e p', e.written = (.ext a.1, a.2) ∧
      extLoop reg (fuel + 1) (lo8 a.1 :: hi8 a.1 :: (a.2 ++ rest)) p b
        = extLoop reg fuel rest p' { b with entries := b.entries ++ [e] } := by
  obtain ⟨f, hdef, hlen⟩ := ha
  have hwidth : reg.extWidth a.1 = a.2.length := by rw [Registry.extWidth, hdef, hlen]
  have hitem : extItem reg a.1 a.2 p b
      = { b with entries := b.entries ++ [⟨.ext a.1, f.kind, a.2, decodeValue f.kind a.2⟩] } := by
    simp [extItem, hdef, ← hlen]
  refine ⟨⟨.ext a.1, f.kind, a.2, decodeValue f.kind a.2⟩, p + 2 + a.2.length, rfl, ?_⟩
  simp only [extLoop, halfAt_lo8_hi8, hwidth, List.take_left, List.drop_left, hitem]

/-- A block of whole known items is decoded to their entries in order, without an event (R86, R195). -/
theorem extLoop_written {reg : Registry} {ext : List (Half × List Byte)} (hext : ∀ a ∈ ext, WholeExt reg a) {fuel : Nat}
    (hfuel : ext.length ≤ fuel) (p : Nat) (b : Blk) :
    let r := extLoop reg fuel (extBytes ext) p b
    r.out = b.out ∧ r.entries.map Entry.written = b.entries.map Entry.written ++ ext.map fun a => (TagId.ext a.1, a.2) := by
  induction ext generalizing fuel p b with
  | nil => simp [extBytes, extLoop_nil]
  | cons a ext ih =>
    obtain ⟨ha, hext⟩ := List.forall_mem_cons.1 hext
    obtain ⟨fuel, rfl⟩ := Nat.exists_eq_add_of_le' hfuel
    obtain ⟨e, p', he, hround⟩ := extLoop_whole ha (fuel + ext.length) (extBytes ext) p b
    rw [List.length_cons, ← Nat.add_assoc, extBytes_cons, hround]
    obtain ⟨hout, hentries⟩ := ih hext (Nat.le_add_left _ fuel) p' { b with entries := b.entries ++ [e] }
    refine ⟨hout, hentries.trans ?_⟩
    simp [he]

/-- The round of a whole known main item: an entry with its id and its bytes, no event, and the items behind it are left (R183). -/
theorem mainLoop_whole {reg : Registry} {a : Byte × List Byte} (ha : WholeMain reg a) (stop fuel : Nat) (rest : List Byte)
    (d : Dec) : ∃ e d', e.written = (.main a.1, a.2) ∧ d'.out = d.out ∧ d'.entries = d.entries ++ [e] ∧
      mainLoop reg stop (fuel + 1) (a.1 :: (a.2 ++ rest)) d = mainLoop reg stop fuel rest d' := by
  obtain ⟨hescape, f, hdef, hlen⟩ := ha
  have hwidth : reg.mainWidth a.1 = a.2.length := by rw [Registry.mainWidth, hdef, hlen]
  refine ⟨⟨.main a.1, f.kind, a.2, decodeValue f.kind a.2⟩, mainItem reg a.1 a.2 stop d, rfl, ?_, ?_, ?_⟩
  · simp [mainItem, hdef, ← hlen]
  · simp [mainItem, hdef, ← hlen]
  · rw [mainLoop_cons, mainRest, mainRound, if_neg hescape, if_neg hescape, hwidth, List.take_left, List.drop_left]

/-- Whole known main items add their entries in order, and no event; what stands behind them is left (R83, R180). -/
theorem mainLoop_written {reg : Registry} {main : List (Byte × List Byte)} (hmain : ∀ a ∈ main, WholeMain reg a)
    (stop fuel : Nat) (rest : List Byte) (d : Dec) :
    ∃ d', mainLoop reg stop (fuel + main.length) (mainBytes main ++ rest) d = mainLoop reg stop fuel rest d'
      ∧ d'.out = d.out
      ∧ d'.entries.map Entry.written = d.entries.map Entry.written ++ main.map fun a => (TagId.main a.1, a.2) := by
  induction main generalizing d with
  | nil => exact ⟨d, rfl, rfl, by simp⟩
  | cons a main ih =>
    obtain ⟨ha, hmain⟩ := List.forall_mem_cons.1 hmain
    obtain ⟨e, d₁, he, hout₁, hentries₁, hround⟩ := mainLoop_whole ha stop (fuel + main.length) (mainBytes main ++ rest) d
    obtain ⟨d₂, hloop, hout₂, hentries₂⟩ := ih hmain d₁
    refine ⟨d₂, ?_, hout₂.trans hout₁, ?_⟩
    · rw [List.length_cons, ← Nat.add_assoc, mainBytes_cons, hround, hloop]
    · simp [hentries₂, hentries₁, he]

/-- The length field of a block, written low byte first, and the block behind it (R85). -/
def blockBytes (items : List Byte) : List Byte := halfBytes (BitVec.ofNat 16 items.length) ++ items

theorem u16le_blockBytes {items : List Byte} (h : items.length ≤ 65535) : u16le (blockBytes items) 0 = items.length := by
  rw [← halfAt_toNat, blockBytes, halfAt_halfBytes, BitVec.toNat_ofNat]
  exact Nat.mod_eq_of_lt (by omega)

/-- DECODE_EXT on a written block is its loop over exactly the block's bytes (R195). -/
theorem decodeExt_blockBytes (reg : Registry) {items : List Byte} (h : items.length ≤ 65535) (off stop tagAt : Nat) :
    (decodeExt reg (blockBytes items) off stop tagAt).1 = extLoop reg items.length items (off + 2) ⟨[], []⟩ := by
  have hlength : ¬ (blockBytes items).length < 2 := by simp [blockBytes, halfBytes]
  have hitems : (blockBytes items).drop 2 = items := rfl
  simp [decodeExt, hlength, u16le_blockBytes h, hitems]

/-- The escape and its block, written at the end of a segment, are one round, which leaves nothing (R182, R201). -/
theorem mainLoop_block (reg : Registry) (stop fuel : Nat) {items : List Byte} (h : items.length ≤ 65535) (d : Dec) :
    mainLoop reg stop (fuel + 1) (tagESCAPE :: blockBytes items) d = escapeItem reg (blockBytes items) stop d := by
  have hrest : mainRest reg tagESCAPE (blockBytes items) = [] := by
    rw [mainRest, if_pos rfl, u16le_blockBytes h]
    exact List.drop_length
  rw [mainLoop_cons, hrest, mainLoop_nil, mainRound, if_pos rfl]

/-- The escape's round on a block of whole known items adds their entries in order, and no event (R86, R201). -/
theorem escapeItem_written {reg : Registry} {ext : List (Half × List Byte)} (hext : ∀ a ∈ ext, WholeExt reg a)
    (h : (extBytes ext).length ≤ 65535) (stop : Nat) (d : Dec) :
    let r := escapeItem reg (blockBytes (extBytes ext)) stop d
    r.out = d.out ∧ r.entries.map Entry.written = d.entries.map Entry.written ++ ext.map fun a => (TagId.ext a.1, a.2) := by
  obtain ⟨hout, hentries⟩ := extLoop_written hext (length_le_extBytes ext) (d.off + 1 + 2) ⟨[], []⟩
  rw [← decodeExt_blockBytes reg h (d.off + 1) stop d.off] at hout hentries
  simp [escapeItem, hout, hentries]

/-- A segment that is the whole body is decoded from its first byte to its last (R180). -/
theorem decodeRecord_whole_body (reg : Registry) (body : List Byte) (imei : Option (List Byte)) :
    decodeRecord reg body 0 body.length imei = mainLoop reg body.length body.length body ⟨0, [], imei, []⟩ := by
  simp [decodeRecord, slice]

/-- Settles O34: the main items' rounds, then the escape's round, whose block is a loop of whole items. -/
theorem writtenRecordDecodesToItsEntries : Obligations.WrittenRecordDecodesToItsEntries := by
  intro reg main ext imei hmain hext items n body hitems d
  obtain ⟨fuel, hfuel⟩ : ∃ fuel, body.length = fuel + 1 + main.length := by
    have hmainLength := length_le_mainBytes main
    have hlength : body.length = (mainBytes main).length + ((blockBytes (extBytes ext)).length + 1) := List.length_append
    exact ⟨body.length - 1 - main.length, by omega⟩
  obtain ⟨d₁, hmainLoop, hout₁, hentries₁⟩ := mainLoop_written hmain body.length (fuel + 1)
    (tagESCAPE :: blockBytes (extBytes ext)) ⟨0, [], imei, []⟩
  have hd : d = escapeItem reg (blockBytes (extBytes ext)) body.length d₁ := by
    calc d = mainLoop reg body.length body.length body ⟨0, [], imei, []⟩ := decodeRecord_whole_body reg body imei
      _ = mainLoop reg body.length (fuel + 1 + main.length) body ⟨0, [], imei, []⟩ := by rw [← hfuel]
      _ = mainLoop reg body.length (fuel + 1) (tagESCAPE :: blockBytes (extBytes ext)) d₁ := hmainLoop
      _ = escapeItem reg (blockBytes (extBytes ext)) body.length d₁ := mainLoop_block reg body.length fuel hitems d₁
  obtain ⟨hout₂, hentries₂⟩ := escapeItem_written hext hitems body.length d₁
  rw [hd]
  refine ⟨hout₂.trans hout₁, hentries₂.trans ?_⟩
  rw [hentries₁]
  rfl

end Sys2Proof.Machine
end

section
/-! SUPPORT. ChecksumEngine: the shift step of R120 is linear over XOR and only 0 goes to 0, so a span and two more bytes leave 0
exactly when the two bytes are the register the span left (R126). -/

namespace Sys2Proof.Machine
open Sys2Proof

/-- The shift step is linear: a shift, and the polynomial once for each argument whose bit 0 is 1. -/
theorem crcShift_xor (x y : Half) : crcShift (x ^^^ y) = crcShift x ^^^ crcShift y := by
  simp only [crcShift, BitVec.getLsbD_xor, BitVec.ushiftRight_xor_distrib]
  cases x.getLsbD 0 <;> cases y.getLsbD 0
  case false.false => rfl
  case true.true =>
    calc x >>> 1 ^^^ y >>> 1 = x >>> 1 ^^^ y >>> 1 ^^^ (crcPoly ^^^ crcPoly) := by simp
      _ = (x >>> 1 ^^^ crcPoly) ^^^ (y >>> 1 ^^^ crcPoly) := by ac_rfl
  all_goals
    simp only [Bool.false_bne, Bool.bne_false, if_true, Bool.false_eq_true, if_false]
    ac_rfl

/-- A shift step with the polynomial sets bit 15, which no shift does; one without loses a zero bit. -/
theorem crcShift_eq_zero_iff {x : Half} : crcShift x = 0 ↔ x = 0 := by
  refine ⟨fun h => ?_, fun h => by rw [h]; rfl⟩
  rw [crcShift] at h
  split at h
  next => simpa [crcPoly] using congrArg (·.getLsbD 15) h
  next hbit =>
    refine BitVec.eq_of_getLsbD_eq fun i hi => ?_
    cases i with
    | zero => simpa using hbit
    | succ i => simpa [Nat.add_comm] using congrArg (·.getLsbD i) h

theorem crcShifts_xor (n : Nat) (x y : Half) : crcShifts n (x ^^^ y) = crcShifts n x ^^^ crcShifts n y := by
  induction n generalizing x y with
  | zero => rfl
  | succ n ih => simp only [crcShifts, crcShift_xor, ih]

theorem crcShifts_eq_zero_iff (n : Nat) {x : Half} : crcShifts n x = 0 ↔ x = 0 := by
  induction n generalizing x with
  | zero => rfl
  | succ n ih => rw [crcShifts, ih, crcShift_eq_zero_iff]

/-- While the bits shifted out are 0, the polynomial is not XORed in. -/
theorem crcShifts_of_low_zero {n : Nat} {x : Half} (h : ∀ i < n, x.getLsbD i = false) : crcShifts n x = x >>> n := by
  induction n generalizing x with
  | zero => simp [crcShifts]
  | succ n ih =>
    have hshift : crcShift x = x >>> 1 := by rw [crcShift, h 0 (Nat.succ_pos n)]; rfl
    have hlow : ∀ i < n, (x >>> 1).getLsbD i = false := fun i hi => by
      simpa [Nat.add_comm] using h (i + 1) (Nat.succ_lt_succ hi)
    rw [crcShifts, hshift, ih hlow, ← BitVec.shiftRight_add, Nat.add_comm]

/-- A 16-bit value is its low byte and, eight bits up, its high byte. -/
theorem lo8_xor_hi8 (k : Half) : (lo8 k).setWidth 16 ^^^ ((hi8 k).setWidth 16 <<< 8) = k := by
  refine BitVec.eq_of_getLsbD_eq fun i hi => ?_
  by_cases h : i < 8
  · simp [lo8, hi8, h, hi]
  · have hsub : 8 + (i - 8) = i := by omega
    have hhigh : i - 8 < 8 := by omega
    simp [lo8, hi8, h, hi, hsub, hhigh]

/-- A high byte comes down in eight shift steps. -/
theorem crcShifts_high_byte (b : Byte) : crcShifts 8 (b.setWidth 16 <<< 8) = b.setWidth 16 := by
  rw [crcShifts_of_low_zero fun i hi => by simp [hi]]
  refine BitVec.eq_of_getLsbD_eq fun i hi => ?_
  by_cases h : i < 8
  · simp [show 8 + i < 16 by omega, hi]
  · simp [BitVec.getLsbD_of_ge b i (Nat.not_lt.1 h)]

/-- Two bytes in wire order, fed one after the other, act as the 16-bit value fed at once (R120, R126). -/
theorem crcFrom_two_bytes (c k : Half) : crcFrom c [lo8 k, hi8 k] = crcShifts 8 (crcShifts 8 (c ^^^ k)) := by
  have hhigh : crcShifts 8 (c ^^^ k) = crcByte c (lo8 k) ^^^ (hi8 k).setWidth 16 := by
    calc crcShifts 8 (c ^^^ k)
        = crcShifts 8 (c ^^^ (lo8 k).setWidth 16 ^^^ ((hi8 k).setWidth 16 <<< 8)) := by
          rw [BitVec.xor_assoc, lo8_xor_hi8]
      _ = crcByte c (lo8 k) ^^^ (hi8 k).setWidth 16 := by rw [crcShifts_xor, crcShifts_high_byte, crcByte]
  rw [hhigh]
  rfl

/-- Streaming: the register after a span is all that the bytes behind it see (R125). -/
theorem crc16_append (A B : List Byte) : crc16 (A ++ B) = crcFrom (crc16 A) B := List.foldl_append

/-- Settles O14: the two bytes are fed as `k` at once, and only a register of 0 is shifted to 0. -/
theorem checksumResidueIsZero : Obligations.ChecksumResidueIsZero := by
  intro M k
  calc crc16 (M ++ [lo8 k, hi8 k]) = 0
      ↔ crcShifts 8 (crcShifts 8 (crc16 M ^^^ k)) = 0 := by rw [crc16_append, crcFrom_two_bytes]
    _ ↔ crc16 M ^^^ k = 0 := by rw [crcShifts_eq_zero_iff, crcShifts_eq_zero_iff]
    _ ↔ k = crc16 M := BitVec.xor_eq_zero_iff.trans eq_comm

theorem exec_crcCompute (m : List Byte) (s : State) : exec (.crcCompute m) s = .next (s.done (.checksum (crc16 m)) []) := rfl

theorem exec_crcValidate (m : List Byte) (rx : Half) (s : State) :
    exec (.crcValidate m rx) s = .next (s.done (.valid (validate m rx)) []) := rfl

/-- R123: the bit says whether the checksum is the one received. -/
theorem validate_eq_decide (m : List Byte) (rx : Half) : validate m rx = decide (crc16 m = rx) := rfl

/-- Settles O13: the equations of the two operations, and the loop of R120 run on the three spans, by `simp` where
`decide` would recurse too deep. -/
theorem checksumOperationsComplete : Obligations.ChecksumOperationsComplete := by
  refine ⟨exec_crcCompute, fun m rx s => ?_, rfl, by decide, ?_⟩
  · rw [exec_crcValidate, validate_eq_decide]
  · simp [crc16, crcFrom, crcByte, crcShifts, crcShift, crcInit, crcPoly]

end Sys2Proof.Machine
end

section
/-! SUPPORT. FrameFramer: what TRY_EXTRACT answers, by the length field read as a number, and that its answer is
decided by the first bytes (R140 to R148). -/

namespace Sys2Proof.Machine
open Sys2Proof

theorem exec_tryExtract (B : List Byte) (s : State) :
    exec (.tryExtract B) s = .next (s.done (.extract (tryExtract s.cfg.maxBodyLen B)) []) := by
  rw [← extractResult_extractRegs s.work]
  rfl

theorem tryExtract_of_wrong_checksum {max : Nat} {B : List Byte} (hL : frontLength B ≤ max)
    (hwhole : frontLength B + 5 ≤ B.length)
    (hcrc : crc16 (B.take (frontLength B + 3)) ≠ halfAt B (frontLength B + 3)) :
    tryExtract max B = .badChecksum (halfAt B (frontLength B + 3)) (crc16 (B.take (frontLength B + 3)))
      (frontLength B + 5) := by
  rw [tryExtract_of_whole hL hwhole]
  exact if_pos (beq_eq_false_iff_ne.2 hcrc)

theorem tryExtract_of_right_checksum {max : Nat} {B : List Byte} (hL : frontLength B ≤ max)
    (hwhole : frontLength B + 5 ≤ B.length)
    (hcrc : crc16 (B.take (frontLength B + 3)) = halfAt B (frontLength B + 3)) :
    tryExtract max B = .complete (frontFrame B) (frontLength B + 5) := by
  rw [tryExtract_of_whole hL hwhole]
  exact if_neg (by simpa [checksumOk, frontFrame] using hcrc)

/-- The flag and the body of the front frame as R81 and R36 write them: a comparison, and the bytes behind the first three. -/
theorem frontFrame_eq (B : List Byte) : frontFrame B =
    { hdr := byteAt B 0, len := frontLength B, ap := decide (32768 ≤ u16le B 1), body := (B.drop 3).take (frontLength B),
      checksum := halfAt B (frontLength B + 3) } := by
  rw [frontFrame, archivePending_eq, halfAt_toNat, slice, Nat.add_sub_cancel]

/-- Settles O16: one lemma about TRY_EXTRACT per clause, with the length field as a number. -/
theorem tryExtractResults : Obligations.TryExtractResults := by
  intro B s raw L max
  have hL : frontLength B = L := frontLength_eq B
  rw [← hL]
  refine ⟨exec_tryExtract B s, fun h3 => ?short, tryExtract_of_badLength, fun _ hok hpart => ?part,
    tryExtract_of_wrong_checksum, fun hok hwhole hcrc => ?complete⟩
  case short => exact tryExtract_incomplete_iff.2 (.inl h3)
  case part => exact tryExtract_incomplete_iff.2 (.inr ⟨hok, hpart⟩)
  case complete => rw [tryExtract_of_right_checksum hok hwhole hcrc, frontFrame_eq]

/-- The answer on the first bytes, unless it is Incomplete, is the answer on the whole buffer (R148). -/
theorem tryExtract_take {max : Nat} {B : List Byte} {n : Nat} (h : tryExtract max (B.take n) ≠ .incomplete) :
    tryExtract max B = tryExtract max (B.take n) := by
  simpa using tryExtract_append h (B.drop n)

theorem frontLength_take {B : List Byte} {n : Nat} (hn : 3 ≤ n) (h3 : 3 ≤ B.length) :
    frontLength (B.take n) = frontLength B := by
  have htake : 3 ≤ (B.take n).length := by rw [List.length_take]; omega
  simpa using (frontLength_append htake (B.drop n)).symm

/-- The number of bytes that decide the answer on a buffer (R148). -/
def decidingLength (max : Nat) (B : List Byte) : Nat :=
  if B.length < 3 ∨ max < frontLength B then 3 else frontLength B + 5

/-- On a buffer that holds its deciding bytes, these alone are answered with a result other than Incomplete (R148). -/
theorem tryExtract_take_decidingLength {max : Nat} {B : List Byte} (h : decidingLength max B ≤ B.length) :
    tryExtract max (B.take (decidingLength max B)) ≠ .incomplete := by
  have hpos : 3 ≤ decidingLength max B := by unfold decidingLength; split <;> omega
  have h3 : 3 ≤ B.length := hpos.trans h
  have hdecided : max < frontLength B ∨ decidingLength max B = frontLength B + 5 := by
    unfold decidingLength; split <;> omega
  rw [Ne, tryExtract_incomplete_iff, frontLength_take hpos h3, List.length_take_of_le h]
  omega

/-- Settles O18: every clause compares a buffer with its first bytes, on which the answer is not Incomplete. -/
theorem extractionReadsAPrefixOnly : Obligations.ExtractionReadsAPrefixOnly := by
  intro max B L P
  have hP : P = decidingLength max B := by rw [decidingLength, frontLength_eq]
  refine ⟨fun B' hsame hcase => ?agrees, tryExtract_append, fun hwaits n => ?waits⟩
  case agrees =>
    rcases hcase with hlen | rfl
    · have hdecided : tryExtract max (B.take P) ≠ .incomplete := by
        rw [hP] at hlen ⊢; exact tryExtract_take_decidingLength hlen
      calc tryExtract max B' = tryExtract max (B'.take P) := tryExtract_take (hsame ▸ hdecided)
        _ = tryExtract max (B.take P) := by rw [hsame]
        _ = tryExtract max B := (tryExtract_take hdecided).symm
    · rfl
  case waits =>
    by_contra hanswered
    exact hanswered (tryExtract_take hanswered ▸ hwaits)

end Sys2Proof.Machine
end

section
/-! SUPPORT. The frame steps of a wrong checksum and of a length out of limits, by the row or the operation that runs them: what they
drop, and the events they emit (R141, R144, R256, R292, R294). -/

namespace Sys2Proof.Machine
open Sys2Proof

theorem Session.frameStep_of_badChecksum {cfg : Config} {reg : Registry} {c : Session} {rx computed : Half} {T : Nat}
    (h : tryExtract cfg.maxBodyLen c.buf = .badChecksum rx computed T) :
    c.frameStep cfg reg = some ((c.bufDrop T).settle cfg,
      [.protocolError (.checksumMismatch rx computed T), .ackRequired ackRejectBytes]) := by
  simp [Session.frameStep, h, raise, ackBytes]

/-- A drop and the phase of R260 on what it leaves. -/
theorem Session.settle_bufDrop {cfg : Config} {c : Session} {n : Nat} {left : List Byte} (h : c.buf.drop n = left) :
    (c.bufDrop n).settle cfg = { c with buf := left, phase := phaseAfter cfg left } := by
  rw [← h]
  rfl

/-- Settles O42: whatever its class, the row is the frame step on its frame's bytes, which drops exactly these. -/
theorem wrongChecksumIsRejected : Obligations.WrongChecksumIsRejected := by
  intro hdr ap body X k s c good hwrong hc hdue hbuf hbody hmax
  have hanswer : tryExtract s.cfg.maxBodyLen c.buf = .badChecksum k good (body.length + 5) := by
    rw [hbuf]
    exact (writtenFrameIsExtracted _ hdr ap body X k hbody hmax).2 hwrong
  have hstep := Session.frameStep_of_badChecksum (reg := s.reg) hanswer
  rw [Session.settle_bufDrop (left := X) (by rw [hbuf, drop_frameBytes])] at hstep
  have hrow := exec_frameInstr hdr ap body k s
  rw [State.frameRow_of_front hc hdue (hbuf ▸ List.prefix_append _ X), State.frameStepAt_of_some hstep] at hrow
  exact ⟨_, hrow, rfl, rfl, rfl, State.sameSetup_refl s⟩

/-- The length declared by the first three bytes: the third on top of the second, without the flag (R50, R81). -/
theorem frontLength_cons (b0 b1 b2 : Byte) (X : List Byte) :
    frontLength (b0 :: b1 :: b2 :: X) = (b2 ++ b1).toNat % 32768 := by
  have happend : (b2 ++ b1).toNat = b1.toNat + 256 * b2.toNat := by
    rw [BitVec.toNat_append, ← Nat.shiftLeft_add_eq_or_of_lt b1.isLt, Nat.shiftLeft_eq]
    omega
  rw [frontLength_eq, happend]
  rfl

theorem exec_frameStep_of_due {cid k : Nat} {s : State} {c : Session} (h : s.findCtx duePhase cid = some (k, c)) :
    exec (.frameStep cid) s = { s with cur := k }.frameStepAt k c := by
  change execFrameStep cid s = _
  rw [execFrameStep, h]

/-- Settles O43: the answer is the length failure, and its frame step drops the first byte. -/
theorem lengthOutOfLimitsDropsOneByte : Obligations.LengthOutOfLimitsDropsOneByte := by
  intro cid k b0 b1 b2 X s c hfind hbuf L hbig
  have hlength : frontLength c.buf = L := by rw [hbuf, frontLength_cons]
  have hanswer : tryExtract s.cfg.maxBodyLen c.buf = .badLength L 1 := by
    rw [← hlength] at hbig ⊢
    exact tryExtract_of_badLength (by simp [hbuf]) hbig
  have hfirst : byteAt c.buf 0 = b0 := by rw [hbuf]; rfl
  have hstep := Session.frameStep_of_badLength (reg := s.reg) hanswer
  rw [hfirst, Session.settle_bufDrop (left := b1 :: b2 :: X) (by rw [hbuf]; rfl)] at hstep
  exact ⟨_, (exec_frameStep_of_due hfind).trans (State.frameStepAt_of_some hstep), rfl, rfl, State.sameSetup_refl s⟩

end Sys2Proof.Machine
end

section
/-! SUPPORT. PacketClassifier and the frames it passes on: the class by the header byte, what a Complete frame of each class does, and
the frame-class rows on a good frame (R160 to R163, R256, R257, R259). -/

namespace Sys2Proof.Machine
open Sys2Proof

theorem exec_classify (hdr : Byte) (s : State) :
    exec (.classify hdr) s = .next (s.done (.frameClass (classify hdr)) []) := rfl

theorem classify_eq_telemetry_iff {hdr : Byte} : classify hdr = .telemetry ↔ hdr = 0x01 := by
  unfold classify
  split
  · next h => exact iff_of_true rfl h
  · next h => exact iff_of_false (by split <;> decide) h

theorem classify_of_not_telemetry {hdr : Byte} (h : hdr ≠ 0x01) :
    classify hdr = if hdr = 0x15 then .ignorable else .extension := if_neg h

theorem classify_eq_ignorable_iff {hdr : Byte} : classify hdr = .ignorable ↔ hdr = 0x15 := by
  by_cases htelemetry : hdr = 0x01
  · rw [classify_eq_telemetry_iff.2 htelemetry, htelemetry]
    decide
  · rw [classify_of_not_telemetry htelemetry]
    split
    · next h => exact iff_of_true rfl h
    · next h => exact iff_of_false (by decide) h

theorem classify_eq_extension_iff {hdr : Byte} : classify hdr = .extension ↔ hdr ≠ 0x01 ∧ hdr ≠ 0x15 := by
  rw [← not_or, ← classify_eq_telemetry_iff, ← classify_eq_ignorable_iff]
  cases classify hdr <;> simp

/-- Settles O20: the operation's equation, and one equivalence per class. -/
theorem classifyByHeaderByte : Obligations.ClassifyByHeaderByte := fun hdr s =>
  ⟨classify hdr, exec_classify hdr s, classify_eq_telemetry_iff, classify_eq_ignorable_iff, classify_eq_extension_iff⟩

/-- PROCESS_TELEMETRY tells the orphan bytes, if there are any, before the segments' events (R257). -/
theorem processTelemetry_eq (reg : Registry) (f : Frame) (imei : Option (List Byte)) :
    processTelemetry reg f imei =
      let sp := split f.body f.len
      let r := decodeSegments reg f.body sp.1 imei
      (r.1, (if sp.2 = 0 then [] else [.protocolError (.orphanBytes sp.2)]) ++ r.2) := by
  simp only [processTelemetry, raise, List.nil_append, Nat.pos_iff_ne_zero, ite_not]

/-- R161, R256, R259. -/
theorem completeFrame_of_telemetry (reg : Registry) {f : Frame} (h : f.hdr = 0x01) (imei : Option (List Byte)) :
    completeFrame reg f imei =
      let r := processTelemetry reg f imei
      (r.1, .frame .telemetry 0x01 f.ap f.body :: r.2 ++ [.ackRequired (buildAck f.checksum)]) := by
  have hclass : classify 0x01 = .telemetry := rfl
  simp only [completeFrame, h, hclass, if_true, ackBytes]

/-- A frame of another class is acknowledged and its body left unread (R162, R163, R259). -/
theorem completeFrame_of_not_telemetry (reg : Registry) {f : Frame} (h : f.hdr ≠ 0x01) (imei : Option (List Byte)) :
    completeFrame reg f imei =
      (imei, [.frame (classify f.hdr) f.hdr f.ap f.body, .ackRequired (buildAck f.checksum)]) := by
  simp only [completeFrame, if_neg (mt classify_eq_telemetry_iff.1 h), ackBytes, List.cons_append, List.nil_append]

theorem Session.frameStep_of_complete {cfg : Config} {reg : Registry} {c : Session} {f : Frame} {T : Nat}
    (h : tryExtract cfg.maxBodyLen c.buf = .complete f T) :
    c.frameStep cfg reg = some ({ (c.bufDrop T).settle cfg with lastIMEI := (completeFrame reg f c.lastIMEI).1 },
      (completeFrame reg f c.lastIMEI).2) := by
  simp only [Session.frameStep, h]

/-- The frame with this header byte, flag and body whose checksum field is its checksum (R80). -/
def goodFrame (hdr : Byte) (ap : Bool) (body : List Byte) : Frame :=
  { hdr := hdr, len := body.length, ap := ap, body := body, checksum := crc16 (frameHead hdr ap body) }

/-- The session once a good frame, with `X` behind it, has left its buffer; the IMEI is the one the frame leaves (R256, R260). -/
def Session.pastFrame (c : Session) (cfg : Config) (X : List Byte) (imei : Option (List Byte)) : Session :=
  { c with buf := X, lastIMEI := imei, phase := phaseAfter cfg X }

/-- A good frame's bytes at the front of a buffer are extracted as that frame, and its frame step leaves what stands behind
them (R145, R256). -/
theorem Session.frameStep_goodFrame {cfg : Config} {reg : Registry} {c : Session} {hdr : Byte} {ap : Bool} {body X : List Byte}
    (hbuf : c.buf = frameBytes hdr ap body (goodFrame hdr ap body).checksum ++ X) (hbody : body.length ≤ cfg.maxBodyLen)
    (hmax : cfg.maxBodyLen ≤ 32767) :
    let r := completeFrame reg (goodFrame hdr ap body) c.lastIMEI
    c.frameStep cfg reg = some (c.pastFrame cfg X r.1, r.2) := by
  have hanswer : tryExtract cfg.maxBodyLen c.buf = .complete (goodFrame hdr ap body) (body.length + 5) := by
    rw [hbuf]
    exact (writtenFrameIsExtracted _ hdr ap body X _ hbody hmax).1 rfl
  rw [Session.frameStep_of_complete hanswer, Session.settle_bufDrop (left := X) (by rw [hbuf, drop_frameBytes])]
  rfl

/-- Whatever its class, the row of a good frame at the front of a due context's buffer completes with what the frame does. -/
theorem exec_frameInstr_goodFrame {hdr : Byte} {ap : Bool} {body X : List Byte} {s : State} {c : Session}
    (hc : s.ctxs[s.cur]? = some c) (hdue : c.phase = .hasCompleteFrames)
    (hbuf : c.buf = frameBytes hdr ap body (goodFrame hdr ap body).checksum ++ X) (hbody : body.length ≤ s.cfg.maxBodyLen)
    (hmax : s.cfg.maxBodyLen ≤ 32767) {imei : Option (List Byte)} {evs : List Event}
    (hdone : completeFrame s.reg (goodFrame hdr ap body) c.lastIMEI = (imei, evs)) :
    exec (frameInstr hdr ap body (goodFrame hdr ap body).checksum) s
      = .next (((s.setCtx s.cur (c.pastFrame s.cfg X imei)).emit c evs).done .nothing evs) := by
  have hstep := Session.frameStep_goodFrame (reg := s.reg) hbuf hbody hmax
  rw [hdone] at hstep
  rw [exec_frameInstr, State.frameRow_of_front hc hdue (hbuf ▸ List.prefix_append _ X), State.frameStepAt_of_some hstep]

/-- Settles O40: the row of a good frame, whose class is Telemetry: its segments are decoded between the `Frame` event and the
acknowledgement. -/
theorem telemetryFrameCompletes : Obligations.TelemetryFrameCompletes := by
  intro ap body X s c k hc hdue hbuf hbody hmax sp r
  have hdone := completeFrame_of_telemetry s.reg (f := goodFrame 0x01 ap body) rfl c.lastIMEI
  rw [processTelemetry_eq] at hdone
  exact ⟨_, exec_frameInstr_goodFrame hc hdue hbuf hbody hmax hdone, rfl, rfl, rfl, State.sameSetup_refl s⟩

/-- Settles O41: the row of a good frame, whose class is not Telemetry. -/
theorem otherFramesComplete : Obligations.OtherFramesComplete := by
  intro hdr ap body X s c k hother hc hdue hbuf hbody hmax cls
  have hdone := completeFrame_of_not_telemetry s.reg (f := goodFrame hdr ap body) hother c.lastIMEI
  have hrow := exec_frameInstr_goodFrame hc hdue hbuf hbody hmax hdone
  have hclass : classify hdr = cls := classify_of_not_telemetry hother
  rw [frameInstr, if_neg hother] at hrow
  refine ⟨_, hrow, rfl, ?_, rfl, State.sameSetup_refl s⟩
  rw [← hclass]
  rfl

end Sys2Proof.Machine
end

section
/-! SUPPORT. The decode kinds: little-endian numbers as the bits of their bytes, highest byte first, and two's complement (R12, R50,
R173 to R179, R187 to R193). -/

namespace Sys2Proof.Machine
open Sys2Proof

/-- A byte joined below a word is added to 256 times its value. -/
theorem toNat_append_byte {n : Nat} (v : BitVec n) (b : Byte) : (v ++ b).toNat = 256 * v.toNat + b.toNat := by
  rw [BitVec.toNat_append, ← Nat.shiftLeft_add_eq_or_of_lt b.isLt, Nat.shiftLeft_eq]
  omega

/-- A 16-bit read is its two bytes, the second one on top (R50). -/
theorem u16le_eq_append (S : List Byte) (o : Nat) : u16le S o = (byteAt S (o + 1) ++ byteAt S o).toNat := by
  rw [toNat_append_byte, u16le, u8, u8]
  omega

/-- A 32-bit read is its four bytes, the last one on top (R50). -/
theorem u32le_eq_append (S : List Byte) (o : Nat) :
    u32le S o = (byteAt S (o + 3) ++ byteAt S (o + 2) ++ byteAt S (o + 1) ++ byteAt S o).toNat := by
  simp only [toNat_append_byte, u32le, u8]
  omega

/-- Sign extension of a word's number is the word in two's complement (R12). -/
theorem sext_toNat {n : Nat} (v : BitVec (n + 1)) : sext (n + 1) v.toNat = v.toInt := by
  have hhalf : 2 ^ (n + 1) = 2 * 2 ^ n := Nat.pow_succ'
  rw [sext, BitVec.toInt_eq_toNat_cond, Nat.add_sub_cancel]
  by_cases h : v.toNat < 2 ^ n
  · rw [if_pos h, if_pos (by omega)]
  · rw [if_neg h, if_neg (by omega)]
    push_cast
    rfl

theorem s8_eq (S : List Byte) (o : Nat) : s8 S o = (byteAt S o).toInt := sext_toNat (n := 7) _

theorem s16le_eq_append (S : List Byte) (o : Nat) : s16le S o = (byteAt S (o + 1) ++ byteAt S o).toInt := by
  rw [s16le, u16le_eq_append]
  exact sext_toNat (n := 15) _

theorem s32le_eq_append (S : List Byte) (o : Nat) :
    s32le S o = (byteAt S (o + 3) ++ byteAt S (o + 2) ++ byteAt S (o + 1) ++ byteAt S o).toInt := by
  rw [s32le, u32le_eq_append]
  exact sext_toNat (n := 31) _

/-- The bits of a 16-bit read are those of its two bytes joined (R191). -/
theorem sixteenBits_u16le (S : List Byte) (o : Nat) :
    sixteenBits (u16le S o) = (List.range 16).map fun i => (byteAt S (o + 1) ++ byteAt S o).getLsbD i := by
  rw [u16le_eq_append]
  rfl

theorem lowNibble_eq (q : Byte) : q.setWidth 4 = q.extractLsb' 0 4 := by
  ext i hi
  simp

theorem highNibble_eq (q : Byte) : (q >>> 4).setWidth 4 = q.extractLsb' 4 4 := by
  ext i hi
  simp

theorem valueInt8_eq (b0 : Byte) : valueInt8 [b0] = .int b0.toInt := by rw [valueInt8, s8_eq]; rfl

theorem valueUint16_eq (b0 b1 : Byte) : valueUint16 [b0, b1] = .int (b1 ++ b0).toNat := by
  rw [valueUint16, u16le_eq_append]; rfl

theorem valueInt16_eq (b0 b1 : Byte) : valueInt16 [b0, b1] = .int (b1 ++ b0).toInt := by
  rw [valueInt16, s16le_eq_append]; rfl

theorem valueUint32_eq (b0 b1 b2 b3 : Byte) : valueUint32 [b0, b1, b2, b3] = .int (b3 ++ b2 ++ b1 ++ b0).toNat := by
  rw [valueUint32, u32le_eq_append]; rfl

theorem valueInt32_eq (b0 b1 b2 b3 : Byte) : valueInt32 [b0, b1, b2, b3] = .int (b3 ++ b2 ++ b1 ++ b0).toInt := by
  rw [valueInt32, s32le_eq_append]; rfl

theorem valueModbusScaled_eq (b0 b1 b2 b3 : Byte) :
    valueModbusScaled [b0, b1, b2, b3] = .scaled ⟨(b3 ++ b2 ++ b1 ++ b0).toNat, 100⟩ := by
  rw [valueModbusScaled, u32le_eq_append]; rfl

theorem valueCoordinates_eq (q a0 a1 a2 a3 o0 o1 o2 o3 : Byte) :
    valueCoordinates [q, a0, a1, a2, a3, o0, o1, o2, o3] = .coordinates (q.extractLsb' 0 4) (q.extractLsb' 4 4)
      ⟨(a3 ++ a2 ++ a1 ++ a0).toInt, 1000000⟩ ⟨(o3 ++ o2 ++ o1 ++ o0).toInt, 1000000⟩ := by
  rw [valueCoordinates, s32le_eq_append, s32le_eq_append, lowNibble_eq, highNibble_eq]; rfl

theorem valueSpeedDirection_eq (s0 s1 d0 d1 : Byte) :
    valueSpeedDirection [s0, s1, d0, d1] = .speedDirection ⟨(s1 ++ s0).toNat, 10⟩ ⟨(d1 ++ d0).toNat, 10⟩ := by
  rw [valueSpeedDirection, u16le_eq_append, u16le_eq_append]; rfl

theorem valueStatusBits_eq (b0 b1 : Byte) :
    valueStatusBits [b0, b1] = .bits (b1 ++ b0).toNat ((List.range 16).map fun i => (b1 ++ b0).getLsbD i) := by
  rw [valueStatusBits, sixteenBits_u16le, u16le_eq_append]; rfl

/-- Settles O21: each row completes with its kind's value; Uint8 is its byte, DateTimeSeconds is read as Uint32 is (R187). -/
theorem integerKindsDecode : Obligations.IntegerKindsDecode := by
  intro b0 b1 b2 b3 s result
  exact ⟨rfl,
    congrArg result (valueInt8_eq b0),
    congrArg result (valueUint16_eq b0 b1),
    congrArg result (valueInt16_eq b0 b1),
    congrArg result (valueUint32_eq b0 b1 b2 b3),
    congrArg result (valueInt32_eq b0 b1 b2 b3),
    congrArg result (valueUint32_eq b0 b1 b2 b3),
    congrArg result (valueModbusScaled_eq b0 b1 b2 b3)⟩

/-- Settles O22: each row completes with its kind's value; FixedString is its bytes, IOBitfield is read as StatusBits is (R192). -/
theorem structuredKindsDecode : Obligations.StructuredKindsDecode := by
  intro q a0 a1 a2 a3 o0 o1 o2 o3 V s result bits
  exact ⟨rfl,
    congrArg result (valueCoordinates_eq q a0 a1 a2 a3 o0 o1 o2 o3),
    congrArg result (valueSpeedDirection_eq a0 a1 a2 a3),
    congrArg result (valueStatusBits_eq a0 a1),
    congrArg result (valueStatusBits_eq a0 a1)⟩

end Sys2Proof.Machine
end

section
/-! SUPPORT. The rows TAG8 and TAG16 one by one: a round on the working registers, whole, cut off or unknown, and where the offset goes
(R183 to R186, R190, R195 to R201). -/

namespace Sys2Proof.Machine
open Sys2Proof

/-- An offset register moved on is the register plus the distance, at its width (R27). -/
theorem ofNat_toNat_add {w : Nat} (v : BitVec w) (n : Nat) : BitVec.ofNat w (v.toNat + n) = v + BitVec.ofNat w n := by
  rw [BitVec.ofNat_add, BitVec.ofNat_toNat, BitVec.setWidth_eq]

/-- The offset one byte and `n` more behind the tag. -/
theorem ofNat_behind_tag (off : Half) (n : Nat) : BitVec.ofNat 16 (off.toNat + 1 + n) = off + 1 + BitVec.ofNat 16 n := by
  rw [Nat.add_assoc, ofNat_toNat_add, BitVec.ofNat_add, ← BitVec.add_assoc]
  rfl

/-- The registers of a round leave the contexts alone: the `lastIMEI` read before it, written back, changes nothing. -/
theorem State.afterRound_setIMEI_curIMEI (s : State) (w : Work) (evs : List Event) :
    (s.afterRound w evs).setIMEI s.curIMEI = s.afterRound w evs := (s.afterRound w evs).setIMEI_curIMEI

/-- A known main tag, whole: its entry, the offset behind it, and for 0x03 the IMEI (R183, R190). -/
theorem State.tagRound_of_whole {s : State} {t : Byte} {v : List Byte} {d : TagDef} (hdef : s.reg.mainDef t = some d)
    (hlen : v.length = d.kind.width) :
    s.tagRound t v = (s.afterRound { s.inRecord with
      tag := t, off := s.work.off + 1 + BitVec.ofNat 16 d.kind.width
      entries := s.work.entries ++ [⟨.main t, d.kind, v, decodeValue d.kind v⟩] } []).setIMEI
        (if t = tagIMEI then some v else s.curIMEI) := by
  have htake : v.take d.kind.width = v := List.take_of_length_le hlen.le
  simp only [State.tagRound, mainItem, hdef, hlen, Nat.lt_irrefl, if_false, htake, ofNat_behind_tag]

/-- A known main tag, cut off: TruncatedTag, and the record ends (R184). -/
theorem State.tagRound_of_cut {s : State} {t : Byte} {v : List Byte} {d : TagDef} (hdef : s.reg.mainDef t = some d)
    (hlen : v.length < d.kind.width) :
    s.tagRound t v = s.afterRound { s.inRecord with tag := t, off := s.work.stop }
      [.protocolError (.truncatedTag .main (some (.main t)) s.work.off.toNat d.kind.width v.length)] := by
  simp only [State.tagRound, mainItem, hdef, if_pos hlen, BitVec.ofNat_toNat, BitVec.setWidth_eq,
    State.afterRound_setIMEI_curIMEI]
  rfl

/-- An unknown main tag: UnknownTag, and the skip (R185). -/
theorem State.tagRound_of_unknown {s : State} {t : Byte} {v : List Byte} (hdef : s.reg.mainDef t = none)
    (hlen : v.length ≤ 4) :
    s.tagRound t v = s.afterRound { s.inRecord with tag := t, off := s.work.off + 1 + BitVec.ofNat 16 v.length }
      [.protocolError (.unknownTag (.main t) s.work.off.toNat)] := by
  have hskip : min unknownSkip v.length = v.length := Nat.min_eq_right hlen
  simp only [State.tagRound, mainItem, hdef, hskip, ofNat_behind_tag, State.afterRound_setIMEI_curIMEI]
  rfl

/-- A known main tag other than 0x03, whole, leaves the contexts as they are (R183). -/
theorem State.tagRound_of_whole_not_imei {s : State} {t : Byte} {v : List Byte} {d : TagDef}
    (hdef : s.reg.mainDef t = some d) (ht : t ≠ tagIMEI) (hlen : v.length = d.kind.width) :
    s.tagRound t v = s.afterRound { s.inRecord with
      tag := t, off := s.work.off + 1 + BitVec.ofNat 16 d.kind.width
      entries := s.work.entries ++ [⟨.main t, d.kind, v, decodeValue d.kind v⟩] } [] := by
  rw [State.tagRound_of_whole hdef hlen, if_neg ht, State.afterRound_setIMEI_curIMEI]

/-- Settles O23: the row is the round of its tag, which writes no IMEI. -/
theorem knownTagRound : Obligations.KnownTagRound := fun _ _ _ _ hdef ht =>
  ⟨fun hlen => congrArg _ (State.tagRound_of_whole_not_imei hdef ht hlen),
    fun hlen => congrArg _ (State.tagRound_of_cut hdef hlen)⟩

/-- Settles O24. -/
theorem unknownTagRound : Obligations.UnknownTagRound := fun _ _ _ hdef hlen =>
  congrArg _ (State.tagRound_of_unknown hdef hlen)

/-- The IMEI's row in an open session is the round of its tag (R190). -/
theorem exec_tagImei_of_session {s : State} {c : Session} (hcur : s.curSession = some c) (v : List Byte) :
    exec (.tagImei v) s = .next (s.tagRound tagIMEI v) := by
  simp only [exec, execTagImei, hcur]

theorem exec_tagImei_of_no_session {s : State} (hcur : s.curSession = none) (v : List Byte) :
    exec (.tagImei v) s = .refused .noSession := by
  simp only [exec, execTagImei, hcur]

/-- Writing `lastIMEI` after a round writes the context that was current before it (R190). -/
theorem State.afterRound_setIMEI {s : State} {c : Session} (hcur : s.curSession = some c) (w : Work) (evs : List Event)
    (imei : Option (List Byte)) :
    (s.afterRound w evs).setIMEI imei = (s.afterRound w evs).setCtx s.cur { c with lastIMEI := imei } := by
  have hsame : (s.afterRound w evs).curSession = some c := hcur
  simp only [State.setIMEI, hsame, State.afterRound_cur]

/-- Settles O25: the row is the round of tag 0x03, which in a legal registry is fifteen bytes (R9). -/
theorem imeiTagRound : Obligations.ImeiTagRound := by
  intro v s hlegal
  have hdef := mainDef_imei_of_legal hlegal
  refine ⟨fun c hcur => ⟨fun hlen => ?_, fun hlen => ?_⟩, fun hcur => exec_tagImei_of_no_session hcur v⟩
  · rw [exec_tagImei_of_session hcur, State.tagRound_of_whole hdef hlen, if_pos rfl, State.afterRound_setIMEI hcur,
      BitVec.add_assoc]
    rfl
  · rw [exec_tagImei_of_session hcur, State.tagRound_of_cut hdef hlen]
    rfl

/-- An extended item that is not cut off moves `p` behind itself and leaves `off` (R195). -/
theorem State.xtagRound_of_not_cut {s : State} {x : Half} {v : List Byte}
    (hcut : s.reg.extDef x = none ∨ s.reg.extWidth x ≤ v.length) :
    s.xtagRound x v =
      let b := extItem s.reg x v s.work.p.toNat ⟨s.work.entries, []⟩
      s.afterRound { s.inBlock with
        x := x, entries := b.entries, p := s.work.p + 2 + BitVec.ofNat 16 (min (s.reg.extWidth x) v.length) } b.out := by
  have hfalse : ((s.reg.extDef x).isSome && decide (v.length < s.reg.extWidth x)) = false := by
    rcases hcut with hdef | hlen
    · rw [hdef]; rfl
    · rw [decide_eq_false hlen.not_gt, Bool.and_false]
  simp only [State.xtagRound, hfalse]
  rfl

/-- A known extended tag, whole: its entry (R195). -/
theorem State.xtagRound_of_whole {s : State} {x : Half} {v : List Byte} {d : TagDef} (hdef : s.reg.extDef x = some d)
    (hlen : v.length = d.kind.width) :
    s.xtagRound x v = s.afterRound { s.inBlock with
      x := x, p := s.work.p + 2 + BitVec.ofNat 16 d.kind.width
      entries := s.work.entries ++ [⟨.ext x, d.kind, v, decodeValue d.kind v⟩] } [] := by
  have hwidth : s.reg.extWidth x = d.kind.width := by rw [Registry.extWidth, hdef]
  have htake : v.take d.kind.width = v := List.take_of_length_le hlen.le
  rw [State.xtagRound_of_not_cut (.inr (by omega))]
  simp only [extItem, hdef, hlen, Nat.lt_irrefl, if_false, htake, hwidth, Nat.min_self]

/-- A known extended tag, cut off: TruncatedTag, and both offsets at the block's end (R200, R196; log entry 21). -/
theorem State.xtagRound_of_cut {s : State} {x : Half} {v : List Byte} {d : TagDef} (hdef : s.reg.extDef x = some d)
    (hlen : v.length < d.kind.width) :
    s.xtagRound x v = s.afterRound { s.inBlock with
      x := x, p := s.work.blkEnd.setWidth 16, off := s.work.blkEnd.setWidth 16 }
      [.protocolError (.truncatedTag .ext (some (.ext x)) s.work.p.toNat d.kind.width v.length)] := by
  have hwidth : s.reg.extWidth x = d.kind.width := by rw [Registry.extWidth, hdef]
  simp only [State.xtagRound, extItem, hdef, hwidth, hlen, Option.isSome_some, decide_true, Bool.and_self, if_true]
  rfl

/-- An unknown extended tag: UnknownTag, and the skip (R199). -/
theorem State.xtagRound_of_unknown {s : State} {x : Half} {v : List Byte} (hdef : s.reg.extDef x = none)
    (hlen : v.length ≤ 4) :
    s.xtagRound x v = s.afterRound { s.inBlock with x := x, p := s.work.p + 2 + BitVec.ofNat 16 v.length }
      [.protocolError (.unknownTag (.ext x) s.work.p.toNat)] := by
  have hskip : min (s.reg.extWidth x) v.length = v.length := by rw [Registry.extWidth, hdef]; exact Nat.min_eq_right hlen
  rw [State.xtagRound_of_not_cut (.inl hdef)]
  simp only [extItem, hdef, hskip]
  rfl

/-- Settles O28: each of the three rows is the round of its tag, XTAG_MODBUS that of the tag 0x0001. -/
theorem extendedTagRounds : Obligations.ExtendedTagRounds := by
  intro x v s
  have rows {t : State} (h : s.xtagRound x v = t) :
      .next (s.xtagRound x v) = Host.Outcome.next (φ := Fault) (ρ := Refusal) t
        ∧ (x = 1 → exec (.xtagModbus v) s = .next t) :=
    ⟨congrArg _ h, fun hx => congrArg _ (hx ▸ h)⟩
  exact ⟨fun d hdef => ⟨fun hlen => rows (State.xtagRound_of_whole hdef hlen),
      fun hlen => rows (State.xtagRound_of_cut hdef hlen)⟩,
    fun hdef hlen => rows (State.xtagRound_of_unknown hdef hlen)⟩

end Sys2Proof.Machine
end

section
/-! SUPPORT. DECODE_EXT by its three cases, the length field cut off, the block cut off, and the block whole: what it answers, that all
its entries are extended, and where the main parser goes on (R186, R195 to R197, R201). -/

namespace Sys2Proof.Machine
open Sys2Proof

/-- The length field is cut off: TruncatedTag, and nothing is read (R186). -/
theorem decodeExt_of_short {reg : Registry} {rest : List Byte} (h : rest.length < 2) (off stop tagAt : Nat) :
    decodeExt reg rest off stop tagAt =
      (⟨[], [.protocolError (.truncatedTag .extLength (some (.main tagESCAPE)) tagAt 2 rest.length)]⟩, stop) := by
  simp only [decodeExt, if_pos h]
  rfl

/-- The error that comes first when the block is cut off, `rest` the bytes behind its length field (R197). -/
def blockErrors (n tagAt : Nat) (rest : List Byte) : List Event :=
  if n ≤ rest.length then []
  else [.protocolError (.truncatedTag .extBlock (some (.main tagESCAPE)) tagAt n rest.length)]

/-- The length field is there: the loop runs over the bytes of the block that are there, after that error if some are not (R195). -/
theorem decodeExt_of_block {reg : Registry} {rest : List Byte} (h : 2 ≤ rest.length) (off stop tagAt : Nat) :
    (decodeExt reg rest off stop tagAt).1 =
      let n := u16le rest 0
      let items := (rest.drop 2).take n
      extLoop reg items.length items (off + 2) ⟨[], blockErrors n tagAt (rest.drop 2)⟩ := by
  simp only [decodeExt, if_neg h.not_gt, decide_eq_true_eq, blockErrors]
  rfl

/-- Every entry of a block is of the extended key space (R201). -/
theorem decodeExt_entries_ext (reg : Registry) (rest : List Byte) (off stop tagAt : Nat) :
    ∀ e ∈ (decodeExt reg rest off stop tagAt).1.entries, ∃ x, e.id = .ext x := by
  rcases Nat.lt_or_ge rest.length 2 with hshort | hblock
  · simp [decodeExt_of_short hshort]
  · obtain ⟨es, evs, hloop, hext⟩ := extLoop_adds reg ((rest.drop 2).take (u16le rest 0)).length
      ((rest.drop 2).take (u16le rest 0)) (off + 2) ⟨[], blockErrors (u16le rest 0) tagAt (rest.drop 2)⟩
    rw [decodeExt_of_block hblock, hloop]
    exact hext

/-- A block cut off at the segment's end is told first (R197). -/
theorem decodeExt_head_of_cut {reg : Registry} {rest : List Byte} (h : 2 ≤ rest.length)
    (hcut : (rest.drop 2).length < u16le rest 0) (off stop tagAt : Nat) :
    (decodeExt reg rest off stop tagAt).1.out.head? = some (.protocolError
      (.truncatedTag .extBlock (some (.main tagESCAPE)) tagAt (u16le rest 0) (rest.drop 2).length)) := by
  obtain ⟨es, evs, hloop, -⟩ := extLoop_adds reg ((rest.drop 2).take (u16le rest 0)).length
    ((rest.drop 2).take (u16le rest 0)) (off + 2) ⟨[], blockErrors (u16le rest 0) tagAt (rest.drop 2)⟩
  rw [decodeExt_of_block h, hloop, blockErrors, if_neg hcut.not_ge]
  rfl

/-- The main parser goes on behind a whole block (R196). -/
theorem decodeExt_next_of_whole {reg : Registry} {rest : List Byte} (h : 2 ≤ rest.length)
    (hwhole : u16le rest 0 ≤ (rest.drop 2).length) (off stop tagAt : Nat) :
    (decodeExt reg rest off stop tagAt).2 = off + 2 + u16le rest 0 := by
  rw [List.length_drop] at hwhole
  rw [decodeExt_next, if_neg (by omega)]

/-- The main parser goes on at the segment's end when the block is cut off (R197). -/
theorem decodeExt_next_of_cut {reg : Registry} {rest : List Byte}
    (hcut : (rest.drop 2).length < u16le rest 0) (off stop tagAt : Nat) :
    (decodeExt reg rest off stop tagAt).2 = stop := by
  rw [List.length_drop] at hcut
  rw [decodeExt_next, if_pos (.inr hcut)]

/-- The escape's row is DECODE_EXT on its operands, its entries and events joined to the Record and the events (R201). -/
theorem exec_tagEscape (len items : List Byte) (s : State) :
    exec (.tagEscape len items) s =
      let r := decodeExt s.reg (len ++ items) (s.work.off.toNat + 1) s.work.stop.toNat s.work.off.toNat
      .next (s.afterRound { s.inRecord with
        tag := tagESCAPE, off := BitVec.ofNat 16 r.2, entries := s.work.entries ++ r.1.entries } r.1.out) := rfl

/-- Settles O27: the row's equation, and DECODE_EXT by its three cases. -/
theorem escapeTagRound : Obligations.EscapeTagRound := by
  intro len items s n r off
  have hstop : BitVec.ofNat 16 s.work.stop.toNat = s.work.stop := by rw [BitVec.ofNat_toNat, BitVec.setWidth_eq]
  have hblock (hlen : len.length = 2) :
      2 ≤ (len ++ items).length ∧ u16le (len ++ items) 0 = n ∧ (len ++ items).drop 2 = items :=
    ⟨by rw [List.length_append]; omega, u16le_append (by omega) items, List.drop_left' hlen⟩
  refine ⟨exec_tagEscape len items s, decodeExt_entries_ext _ _ _ _ _, fun hlen hwhole => ?_, fun hlen hcut => ?_,
    fun hlen hnil => ?_⟩
  · obtain ⟨htwo, hn, hitems⟩ := hblock hlen
    have hnext : r.2 = s.work.off.toNat + 1 + 2 + n := by
      rw [← hn]
      exact decodeExt_next_of_whole htwo (by rw [hn, hitems, hwhole]) _ _ _
    simp only [off, hnext]
    rw [BitVec.ofNat_add, Nat.add_assoc s.work.off.toNat, ofNat_toNat_add]
    rfl
  · obtain ⟨htwo, hn, hitems⟩ := hblock hlen
    have hcut' : ((len ++ items).drop 2).length < u16le (len ++ items) 0 := by rw [hn, hitems]; exact hcut
    have hhead := decodeExt_head_of_cut (reg := s.reg) htwo hcut' (s.work.off.toNat + 1) s.work.stop.toNat s.work.off.toNat
    rw [hn, hitems] at hhead
    have hnext : r.2 = s.work.stop.toNat := decodeExt_next_of_cut hcut' _ _ _
    exact ⟨by simp only [off, hnext, hstop], hhead⟩
  · simp only [off, r, hnil, List.append_nil, decodeExt_of_short hlen, hstop, true_and]
    rfl

/-- A 16-bit read at the front of a slice is the read at its offset (R11). -/
theorem u16le_slice {S : List Byte} {a b : Nat} (h : a + 2 ≤ b) : u16le (slice S a b) 0 = u16le S a := by
  have hzero : 0 < b - a := by omega
  have hone : 1 < b - a := by omega
  simp [u16le, u8, byteAt, slice, hzero, hone]

/-- Where the main parser resumes after DECODE_EXT on a span of the body, by the offsets (R186, R196, R197). -/
theorem decodeExt_next_of_slice (reg : Registry) {body : List Byte} {off stop : Nat} (hle : off ≤ stop)
    (hin : stop ≤ body.length) (tagAt : Nat) :
    (decodeExt reg (slice body off stop) off stop tagAt).2 =
      if stop < off + 2 ∨ stop < off + 2 + u16le body off then stop else off + 2 + u16le body off := by
  have hlen : (slice body off stop).length = stop - off := by rw [slice_length]; omega
  rw [decodeExt_next, hlen]
  rcases Nat.lt_or_ge stop (off + 2) with hshort | htwo
  · rw [if_pos (.inl (by omega)), if_pos (.inl hshort)]
  · rw [u16le_slice htwo]
    exact if_congr (or_congr (by omega) (by omega)) rfl rfl

/-- Operands that name no span of a body of at most 32767 bytes (U17). -/
theorem not_span_iff {body : List Byte} {start stop : Nat} :
    (stop < start ∨ body.length < stop ∨ 32767 < body.length) ↔
      ¬ (body.length ≤ 32767 ∧ start ≤ stop ∧ stop ≤ body.length) := by
  omega

/-- Settles O30: the operation tests its operands, and the offset it returns is read off the block's length field. -/
theorem decodeExtCompletes : Obligations.DecodeExtCompletes := fun _ _ _ tagAt s =>
  ⟨fun hbody hle hin => ⟨if_pos ⟨hbody, hle, hin⟩, decodeExt_next_of_slice s.reg hle hin tagAt⟩,
    fun hspan => if_neg (not_span_iff.1 hspan)⟩

end Sys2Proof.Machine
end

section
/-! SUPPORT. The loops of R180 and R195 by their rounds: what every round keeps holds at the end. With it, where the walk of a segment
ends, what its errors name, what its entries are, and the IMEI it leaves (R171, R181, R183, R190, R201, R306). -/

namespace Sys2Proof.Machine
open Sys2Proof

/-- What every round of R180 keeps, from the bytes before it to the bytes behind it, holds when the loop has used up the bytes. -/
theorem mainLoop_keeps {reg : Registry} {stop : Nat} {P : List Byte → Dec → Prop}
    (hround : ∀ t rest d, P (t :: rest) d → P (mainRest reg t rest) (mainRound reg stop t rest d))
    {fuel : Nat} {rest : List Byte} {d : Dec} (hfuel : rest.length ≤ fuel) (h : P rest d) :
    P [] (mainLoop reg stop fuel rest d) := by
  induction fuel generalizing rest d with
  | zero => rw [List.length_eq_zero_iff.1 (Nat.le_zero.1 hfuel)] at h ⊢; exact h
  | succ fuel ih =>
    cases rest with
    | nil => exact h
    | cons t rest =>
      rw [mainLoop_cons]
      have hless := (mainRest_suffix reg t rest).length_le
      exact ih (hless.trans (Nat.le_of_succ_le_succ hfuel)) (hround t rest d h)

/-- The same for DECODE_RECORD, from the first byte of its segment. -/
theorem decodeRecord_keeps {reg : Registry} {body : List Byte} {start stop : Nat} {imei : Option (List Byte)}
    {P : List Byte → Dec → Prop}
    (hround : ∀ t rest d, P (t :: rest) d → P (mainRest reg t rest) (mainRound reg stop t rest d))
    (h : P (slice body start stop) ⟨start, [], imei, []⟩) : P [] (decodeRecord reg body start stop imei) :=
  mainLoop_keeps hround (by rw [slice_length]; exact Nat.min_le_left _ _) h

/-- What every item of R195, and the byte left over (R198), keeps, holds at the loop's end. -/
theorem extLoop_keeps {reg : Registry} {P : List Byte → Nat → Blk → Prop}
    (hitem : ∀ x0 x1 rest p b, P (x0 :: x1 :: rest) p b →
      let x := halfAt [x0, x1] 0
      let w := reg.extWidth x
      P (rest.drop w) (p + 2 + w) (extItem reg x (rest.take w) p b))
    (hleft : ∀ x0 p b, P [x0] p b → P [] p { b with out := raise (.truncatedTag .extTagId none p 2 1) b.out })
    {fuel : Nat} {rest : List Byte} {p : Nat} {b : Blk} (hfuel : rest.length ≤ fuel) (h : P rest p b) :
    ∃ p', P [] p' (extLoop reg fuel rest p b) := by
  induction fuel generalizing rest p b with
  | zero => rw [List.length_eq_zero_iff.1 (Nat.le_zero.1 hfuel)] at h ⊢; exact ⟨p, h⟩
  | succ fuel ih =>
    match rest with
    | [] => exact ⟨p, h⟩
    | [x0] => exact ⟨p, hleft x0 p b h⟩
    | x0 :: x1 :: rest =>
      refine ih ?_ (hitem x0 x1 rest p b h)
      simp only [List.length_cons, List.length_drop] at hfuel ⊢
      omega

/-! ### Errors -/

/-- Every event is an error of the decoder that names an offset from `lo` on and below `hi` (R290, R306). -/
def ErrorsIn (lo hi : Nat) (out : List Event) : Prop :=
  ∀ e ∈ out, ∃ err pos, e = .protocolError err ∧ err.pos? = some pos ∧ lo ≤ pos ∧ pos < hi

theorem errorsIn_nil (lo hi : Nat) : ErrorsIn lo hi [] := by simp [ErrorsIn]

theorem errorsIn_append {lo hi : Nat} {out out' : List Event} (h : ErrorsIn lo hi out) (h' : ErrorsIn lo hi out') :
    ErrorsIn lo hi (out ++ out') := fun e he => (List.mem_append.1 he).elim (h e) (h' e)

theorem errorsIn_singleton {lo hi pos : Nat} {err : ProtocolError} (hpos : err.pos? = some pos) (hlo : lo ≤ pos)
    (hhi : pos < hi) : ErrorsIn lo hi [.protocolError err] := by
  intro e he
  exact ⟨err, pos, List.mem_singleton.1 he, hpos, hlo, hhi⟩

/-- An extended item's error names the item's own offset (R199, R200). -/
theorem extItem_errorsIn (reg : Registry) (x : Half) (value : List Byte) {lo hi p : Nat} {b : Blk} (hlo : lo ≤ p)
    (hhi : p < hi) (h : ErrorsIn lo hi b.out) : ErrorsIn lo hi (extItem reg x value p b).out := by
  rcases extItem_cases reg x value p b with ⟨-, he⟩ | ⟨d, -, -, he⟩ | ⟨d, -, -, he⟩ <;> rw [he]
  · exact errorsIn_append h (errorsIn_singleton rfl hlo hhi)
  · exact errorsIn_append h (errorsIn_singleton rfl hlo hhi)
  · exact h

/-- The loop over a block stands at `p`, from `lo` on, its bytes left all below `hi`, and its errors so far name offsets inside. -/
structure Blk.Inside (lo hi : Nat) (rest : List Byte) (p : Nat) (b : Blk) : Prop where
  from_lo : lo ≤ p
  bytes   : rest.length ≤ hi - p
  errors  : ErrorsIn lo hi b.out

theorem extItem_inside (reg : Registry) {lo hi p : Nat} {x0 x1 : Byte} {rest : List Byte} {b : Blk}
    (h : b.Inside lo hi (x0 :: x1 :: rest) p) (x : Half) (value : List Byte) (w : Nat) :
    (extItem reg x value p b).Inside lo hi (rest.drop w) (p + 2 + w) := by
  obtain ⟨hfrom, hbytes, herrors⟩ := h
  rw [List.length_cons, List.length_cons] at hbytes
  exact ⟨by omega, by rw [List.length_drop]; omega, extItem_errorsIn reg x value hfrom (by omega) herrors⟩

/-- A byte left over is told at its own offset (R198). -/
theorem Blk.Inside.byte_left {lo hi p : Nat} {x0 : Byte} {b : Blk} (h : b.Inside lo hi [x0] p) :
    Blk.Inside lo hi [] p { b with out := raise (.truncatedTag .extTagId none p 2 1) b.out } := by
  obtain ⟨hfrom, hbytes, herrors⟩ := h
  rw [List.length_singleton] at hbytes
  exact ⟨hfrom, Nat.zero_le _, errorsIn_append herrors (errorsIn_singleton rfl hfrom (by omega))⟩

theorem extLoop_errorsIn (reg : Registry) {lo hi p : Nat} {rest : List Byte} {b : Blk} (h : b.Inside lo hi rest p) :
    ErrorsIn lo hi (extLoop reg rest.length rest p b).out := by
  obtain ⟨p', hend⟩ := extLoop_keeps (P := fun rest p b => b.Inside lo hi rest p) (reg := reg)
    (fun _ _ _ _ _ h => extItem_inside reg h _ _ _) (fun _ _ _ h => h.byte_left) le_rfl h
  exact hend.errors

/-- The escape's errors name its own offset or one of an item of its block (R186, R197). -/
theorem decodeExt_errorsIn (reg : Registry) {rest : List Byte} {lo off stop tagAt : Nat} (htag : lo ≤ tagAt)
    (hoff : tagAt < off) (hin : off + rest.length ≤ stop) : ErrorsIn lo stop (decodeExt reg rest off stop tagAt).1.out := by
  rcases Nat.lt_or_ge rest.length 2 with hshort | hblock
  · rw [decodeExt_of_short hshort]
    exact errorsIn_singleton rfl htag (by omega)
  · rw [decodeExt_of_block hblock]
    refine extLoop_errorsIn reg ⟨by omega, by rw [List.length_take, List.length_drop]; omega, ?_⟩
    unfold blockErrors
    split
    · exact errorsIn_nil _ _
    · exact errorsIn_singleton rfl htag (by omega)

/-- A main item's error names the item's own offset (R184, R185). -/
theorem mainItem_errorsIn (reg : Registry) (t : Byte) (value : List Byte) {lo stop : Nat} {d : Dec} (hlo : lo ≤ d.off)
    (hhi : d.off < stop) (h : ErrorsIn lo stop d.out) : ErrorsIn lo stop (mainItem reg t value stop d).out := by
  rcases mainItem_cases reg t value stop d with ⟨-, he⟩ | ⟨f, -, -, he⟩ | ⟨f, -, -, he⟩ <;> rw [he]
  · exact errorsIn_append h (errorsIn_singleton rfl hlo hhi)
  · exact errorsIn_append h (errorsIn_singleton rfl hlo hhi)
  · exact h

theorem mainRound_errorsIn (reg : Registry) (t : Byte) (rest : List Byte) {lo stop : Nat} {d : Dec} (hlo : lo ≤ d.off)
    (hin : d.off + 1 + rest.length ≤ stop) (h : ErrorsIn lo stop d.out) : ErrorsIn lo stop (mainRound reg stop t rest d).out := by
  unfold mainRound
  split
  · exact errorsIn_append h (decodeExt_errorsIn reg hlo (Nat.lt_succ_self _) hin)
  · exact mainItem_errorsIn reg t _ hlo (by omega) h

/-- The walk stands inside its segment: the bytes left reach from its offset to the segment's end, and its errors so far name
offsets inside (R181, R306). -/
structure Dec.Inside (start stop : Nat) (rest : List Byte) (d : Dec) : Prop where
  from_start : start ≤ d.off
  bytes      : d.off + rest.length = stop
  errors     : ErrorsIn start stop d.out

theorem mainRound_inside (reg : Registry) {start stop : Nat} (t : Byte) (rest : List Byte) {d : Dec}
    (h : d.Inside start stop (t :: rest)) : (mainRound reg stop t rest d).Inside start stop (mainRest reg t rest) := by
  obtain ⟨hstart, hbytes, herrors⟩ := h
  rw [List.length_cons] at hbytes
  have hoff := mainRound_off reg (stop := stop) t rest (d := d) (by omega)
  have hless := (mainRest_suffix reg t rest).length_le
  exact ⟨by omega, hoff, mainRound_errorsIn reg t rest hstart (by omega) herrors⟩

/-- The walk of a segment inside the body stays inside it, and uses it up. -/
theorem decodeRecord_inside (reg : Registry) {body : List Byte} {start stop : Nat} (imei : Option (List Byte))
    (hle : start ≤ stop) (hin : stop ≤ body.length) : (decodeRecord reg body start stop imei).Inside start stop [] :=
  decodeRecord_keeps (P := fun rest d => d.Inside start stop rest) (fun t rest _ => mainRound_inside reg t rest)
    ⟨le_rfl, by rw [slice_length]; dsimp only; omega, errorsIn_nil _ _⟩

/-- DECODE_RECORD's `next` is the segment's end (R181). -/
theorem decodeRecord_off (reg : Registry) {body : List Byte} {start stop : Nat} (imei : Option (List Byte))
    (hle : start ≤ stop) (hin : stop ≤ body.length) : (decodeRecord reg body start stop imei).off = stop :=
  (decodeRecord_inside reg imei hle hin).bytes

/-- Settles O31. -/
theorem recordWalkStaysInsideSegment : Obligations.RecordWalkStaysInsideSegment := fun reg _ _ _ imei hle hin =>
  ⟨decodeRecord_off reg imei hle hin, (decodeRecord_inside reg imei hle hin).errors⟩

/-- Settles O29: the operation tests its operands, and its walk ends at the segment's end. -/
theorem decodeRecordCompletes : Obligations.DecodeRecordCompletes := by
  intro cid body start stop s
  constructor
  · intro k c hfind d
    constructor
    · intro hbody hle hin
      have hoff : d.off = stop := decodeRecord_off s.reg c.lastIMEI hle hin
      have hspan : body.length ≤ 32767 ∧ start ≤ stop ∧ stop ≤ body.length := ⟨hbody, hle, hin⟩
      simp only [exec, execDecodeRecord, hfind, if_pos hspan]
      rw [hoff]
    · intro hspan
      simp only [exec, execDecodeRecord, hfind, if_neg (not_span_iff.1 hspan)]
  · intro hnone
    simp only [exec, execDecodeRecord, hnone]

/-! ### Entries -/

/-- An entry is a definition of the registry in its own key space, with the kind's bytes and their value (R171, R183, R201). -/
def Entry.Follows (reg : Registry) (e : Entry) : Prop :=
  ∃ d, reg.lookup e.id = some d ∧ e.kind = d.kind ∧ e.raw.length = d.kind.width ∧ e.value = decodeValue e.kind e.raw

/-- Entries that follow the registry, and one more made of a definition and the kind's bytes. -/
theorem follows_concat {reg : Registry} {es : List Entry} {id : TagId} {d : TagDef} {value : List Byte}
    (h : ∀ e ∈ es, e.Follows reg) (hdef : reg.lookup id = some d) (hlen : d.kind.width ≤ value.length) :
    ∀ e ∈ es ++ [⟨id, d.kind, value.take d.kind.width, decodeValue d.kind (value.take d.kind.width)⟩], e.Follows reg := by
  intro e he
  rcases List.mem_append.1 he with he | he
  · exact h e he
  · rw [List.mem_singleton.1 he]
    exact ⟨d, hdef, rfl, List.length_take_of_le hlen, rfl⟩

theorem extItem_follows (reg : Registry) (x : Half) (value : List Byte) (p : Nat) {b : Blk}
    (h : ∀ e ∈ b.entries, e.Follows reg) : ∀ e ∈ (extItem reg x value p b).entries, e.Follows reg := by
  rcases extItem_cases reg x value p b with ⟨-, he⟩ | ⟨d, -, -, he⟩ | ⟨d, hdef, hlen, he⟩ <;> rw [he]
  · exact h
  · exact h
  · exact follows_concat h hdef hlen

theorem extLoop_follows (reg : Registry) (rest : List Byte) (p : Nat) {b : Blk} (h : ∀ e ∈ b.entries, e.Follows reg) :
    ∀ e ∈ (extLoop reg rest.length rest p b).entries, e.Follows reg := by
  obtain ⟨-, hend⟩ := extLoop_keeps (P := fun _ _ b => ∀ e ∈ b.entries, e.Follows reg) (reg := reg) (p := p)
    (fun _ _ _ p _ h => extItem_follows reg _ _ p h) (fun _ _ _ h => h) (le_refl rest.length) h
  exact hend

theorem decodeExt_follows (reg : Registry) (rest : List Byte) (off stop tagAt : Nat) :
    ∀ e ∈ (decodeExt reg rest off stop tagAt).1.entries, e.Follows reg := by
  rcases Nat.lt_or_ge rest.length 2 with hshort | hblock
  · simp [decodeExt_of_short hshort]
  · rw [decodeExt_of_block hblock]
    exact extLoop_follows reg _ _ (by simp)

theorem mainItem_follows (reg : Registry) (t : Byte) (value : List Byte) (stop : Nat) {d : Dec}
    (h : ∀ e ∈ d.entries, e.Follows reg) : ∀ e ∈ (mainItem reg t value stop d).entries, e.Follows reg := by
  rcases mainItem_cases reg t value stop d with ⟨-, he⟩ | ⟨f, -, -, he⟩ | ⟨f, hdef, hlen, he⟩ <;> rw [he]
  · exact h
  · exact h
  · exact follows_concat h hdef hlen

theorem mainRound_follows (reg : Registry) (stop : Nat) (t : Byte) (rest : List Byte) {d : Dec}
    (h : ∀ e ∈ d.entries, e.Follows reg) : ∀ e ∈ (mainRound reg stop t rest d).entries, e.Follows reg := by
  unfold mainRound
  split
  · exact fun e he => (List.mem_append.1 he).elim (h e) (decodeExt_follows reg _ _ _ _ e)
  · exact mainItem_follows reg t _ stop h

/-- Settles O32: every round adds only such entries. -/
theorem recordEntriesFollowRegistry : Obligations.RecordEntriesFollowRegistry := fun reg _ _ stop _ =>
  decodeRecord_keeps (P := fun _ d => ∀ e ∈ d.entries, e.Follows reg)
    (fun t rest _ => mainRound_follows reg stop t rest) (by simp)

/-! ### The IMEI -/

/-- The raw value of the last main-space entry 0x03, or, if there is none, what `lastIMEI` was (R190). -/
def imeiAfter (entries : List Entry) (imei : Option (List Byte)) : Option (List Byte) :=
  ((entries.filter fun e => e.id == .main 0x03).getLast?.map Entry.raw).or imei

theorem imeiAfter_append (es es' : List Entry) (imei : Option (List Byte)) :
    imeiAfter (es ++ es') imei = imeiAfter es' (imeiAfter es imei) := by
  simp only [imeiAfter, List.filter_append, List.getLast?_append, Option.map_or, Option.or_assoc]

/-- One entry more: it is the last, if it is the IMEI. -/
theorem imeiAfter_concat (es : List Entry) (t : Byte) (k : Kind) (raw : List Byte) (v : Value) (imei : Option (List Byte)) :
    imeiAfter (es ++ [⟨.main t, k, raw, v⟩]) imei = if t = tagIMEI then some raw else imeiAfter es imei := by
  rw [imeiAfter_append]
  by_cases ht : t = tagIMEI
  · subst ht; rfl
  · have hother : (TagId.main t == .main 0x03) = false := beq_false_of_ne fun h => ht (TagId.main.inj h)
    rw [if_neg ht, imeiAfter, List.filter_singleton, hother]
    rfl

/-- Extended entries are no IMEI, whatever their number (R201). -/
theorem imeiAfter_append_ext {es' : List Entry} (h : ∀ e ∈ es', ∃ x, e.id = .ext x) (es : List Entry)
    (imei : Option (List Byte)) : imeiAfter (es ++ es') imei = imeiAfter es imei := by
  have hnone : (es'.filter fun e => e.id == .main 0x03) = [] := by
    rw [List.filter_eq_nil_iff]
    intro e he
    obtain ⟨x, hx⟩ := h e he
    simp [hx]
  rw [imeiAfter_append, imeiAfter, hnone]
  rfl

theorem mainItem_imei (reg : Registry) (t : Byte) (value : List Byte) (stop : Nat) {d : Dec} {imei : Option (List Byte)}
    (h : d.imei = imeiAfter d.entries imei) :
    (mainItem reg t value stop d).imei = imeiAfter (mainItem reg t value stop d).entries imei := by
  rcases mainItem_cases reg t value stop d with ⟨-, he⟩ | ⟨f, -, -, he⟩ | ⟨f, -, -, he⟩ <;> rw [he]
  · exact h
  · exact h
  · rw [imeiAfter_concat, ← h]

theorem mainRound_imei (reg : Registry) (stop : Nat) (t : Byte) (rest : List Byte) {d : Dec} {imei : Option (List Byte)}
    (h : d.imei = imeiAfter d.entries imei) :
    (mainRound reg stop t rest d).imei = imeiAfter (mainRound reg stop t rest d).entries imei := by
  unfold mainRound
  split
  · exact h.trans (imeiAfter_append_ext (decodeExt_entries_ext reg _ _ _ _) _ _).symm
  · exact mainItem_imei reg t _ stop h

theorem decodeRecord_imei (reg : Registry) (body : List Byte) (start stop : Nat) (imei : Option (List Byte)) :
    let d := decodeRecord reg body start stop imei
    d.imei = imeiAfter d.entries imei :=
  decodeRecord_keeps (P := fun _ d => d.imei = imeiAfter d.entries imei) (fun t rest _ => mainRound_imei reg stop t rest) rfl

/-- Settles O33: every round keeps `lastIMEI` at what the entries so far say. -/
theorem lastImeiEntryWins : Obligations.LastImeiEntryWins := by
  intro reg body start stop imei d
  rw [show d.imei = imeiAfter d.entries imei from decodeRecord_imei reg body start stop imei, imeiAfter]
  cases (d.entries.filter fun e => e.id == .main 0x03).getLast? <;> rfl

end Sys2Proof.Machine
end

section
/-! SUPPORT. MultiRecordSplitter: the markers are the indices of the bytes 0x10, and each starts the segment that ends at the next or
at the body's end; as a tag inside a segment 0x10 is looked up like any other (R183 to R185, R220 to R225). -/

namespace Sys2Proof.Machine
open Sys2Proof

theorem markersFrom_eq_idxsOf (i : Nat) (body : List Byte) : markersFrom i body = body.idxsOf tagRECSTART i := by
  induction body generalizing i with
  | nil => rfl
  | cons b body ih => simp only [markersFrom, List.idxsOf_cons, beq_iff_eq, ih]

/-- The markers as R222 lists them, the rising offsets of the bytes 0x10: two rising lists with the same members. -/
theorem markersFrom_zero_eq_filter (body : List Byte) :
    markersFrom 0 body = (List.range body.length).filter fun i => body[i]? == some 0x10 := by
  rw [markersFrom_eq_idxsOf]
  refine List.Pairwise.eq_of_mem_iff List.pairwise_idxsOf (List.pairwise_lt_range.filter _) fun i => ?_
  rw [List.mem_idxsOf_iff_exists_getElem_pos, List.mem_filter, List.mem_range]
  constructor
  · rintro ⟨hi, hmark⟩
    exact ⟨hi, by rw [List.getElem?_eq_getElem hi]; exact hmark⟩
  · rintro ⟨hi, hmark⟩
    rw [List.getElem?_eq_getElem hi] at hmark
    exact ⟨hi, hmark⟩

theorem markersFrom_length (i : Nat) (body : List Byte) : (markersFrom i body).length = body.count 0x10 := by
  rw [markersFrom_eq_idxsOf, List.length_idxsOf]
  rfl

/-- A marker's segment ends at the next marker, or at the body's end if there is none (R223). -/
theorem segmentsOf_cons (p : Nat) (ps : List Nat) (L : Nat) :
    segmentsOf (p :: ps) L = (p, ps.headD L) :: segmentsOf ps L := by
  cases ps <;> rfl

theorem segmentsOf_starts (ps : List Nat) (L : Nat) : (segmentsOf ps L).map Prod.fst = ps := by
  induction ps with
  | nil => rfl
  | cons p ps ih => rw [segmentsOf_cons, List.map_cons, ih]

theorem segmentsOf_ends (ps : List Nat) (L : Nat) :
    (segmentsOf ps L).map Prod.snd = ps.drop 1 ++ if ps = [] then [] else [L] := by
  induction ps with
  | nil => rfl
  | cons p ps ih =>
    rw [segmentsOf_cons, List.map_cons, ih]
    cases ps <;> rfl

/-- A body below the threshold is one segment, whatever it holds (R221). -/
theorem split_of_short (body : List Byte) {L : Nat} (h : L < 32) : split body L = ([(0, L)], 0) := if_pos h

/-- From the threshold on the markers cut the body, and the bytes before the first are orphans (R222 to R225). -/
theorem split_of_long (body : List Byte) {L : Nat} (h : 32 ≤ L) :
    split body L = (segmentsOf (markersFrom 0 body) L, (markersFrom 0 body).headD L) := by
  have hthreshold : ¬ L < splitThreshold := h.not_gt
  rw [split, if_neg hthreshold]
  cases markersFrom 0 body <;> rfl

theorem exec_split_of_span {body : List Byte} (h : body.length ≤ 32767) (s : State) :
    exec (.split body body.length) s =
      .next (s.done (.segments (split body body.length).1 (split body body.length).2) []) := if_pos ⟨h, rfl⟩

theorem exec_split_of_no_span {body : List Byte} {n : Nat} (h : n ≠ body.length ∨ 32767 < body.length) (s : State) :
    exec (.split body n) s = .fault .spanOverrun := if_neg (by omega)

/-- Settles O36: from the threshold on, the segments and the orphans are those of the markers. -/
theorem segmentsStartAtMarkers : Obligations.SegmentsStartAtMarkers := by
  intro body s L starts segs orphan
  refine ⟨fun hbody => exec_split_of_span hbody s, fun n hn => exec_split_of_no_span hn s, fun hshort => ?short,
    fun hlong => ?long⟩
  case short => simp only [segs, orphan, split_of_short body hshort, and_self]
  case long =>
    have hmarkers : markersFrom 0 body = starts := markersFrom_zero_eq_filter body
    have hsplit : (segs, orphan) = (segmentsOf starts L, starts.headD L) := hmarkers ▸ split_of_long body hlong
    obtain ⟨hsegs, horphan⟩ := Prod.mk.inj hsplit
    have hstarts : segs.map Prod.fst = starts := hsegs ▸ segmentsOf_starts starts L
    have hcount : segs.length = body.count 0x10 := by
      rw [← markersFrom_length 0, hmarkers, ← hstarts, List.length_map]
    exact ⟨hstarts, hsegs ▸ segmentsOf_ends starts L, horphan, hcount⟩

/-- Settles O26: the row is the round of the tag 0x10, which writes no IMEI. -/
theorem recordStartTagRound : Obligations.RecordStartTagRound := fun _ _ =>
  ⟨fun _ hdef => ⟨fun hlen => congrArg _ (State.tagRound_of_whole_not_imei hdef (by decide) hlen),
      fun hlen => congrArg _ (State.tagRound_of_cut hdef hlen)⟩,
    fun hdef hlen => congrArg _ (State.tagRound_of_unknown hdef hlen)⟩

end Sys2Proof.Machine
end

section
/-! SUPPORT. The loop of R257 over a frame's segments: run over two lists of segments one after the other, and the Records among its
events, of which the decoder itself emits none (R170, R226, R229, R257, R258). -/

namespace Sys2Proof.Machine
open Sys2Proof

/-- The later segments are decoded with the `lastIMEI` the earlier ones leave, and their events follow (R229, R257). -/
theorem decodeSegments_append (reg : Registry) (body : List Byte) (segs segs' : List (Nat × Nat)) (imei : Option (List Byte)) :
    decodeSegments reg body (segs ++ segs') imei =
      let r := decodeSegments reg body segs imei
      let r' := decodeSegments reg body segs' r.1
      (r'.1, r.2 ++ r'.2) := by
  induction segs generalizing imei with
  | nil => rfl
  | cons seg segs ih => simp only [List.cons_append, decodeSegments, ih, List.append_assoc]

/-- Settles O49: the segments before the last, then the last alone. -/
theorem segmentsAreDecodedInOrder : Obligations.SegmentsAreDecodedInOrder := by
  intro reg body segs a b imei r d
  rw [decodeSegments_append, List.append_assoc]
  rfl

/-- An error raised is no Record. -/
theorem filter_isRecord_raise (err : ProtocolError) (out : List Event) :
    (raise err out).filter Event.isRecord = out.filter Event.isRecord := by
  rw [raise, List.filter_append]
  exact List.append_nil _

theorem extItem_no_record (reg : Registry) (x : Half) (value : List Byte) (p : Nat) {b : Blk}
    (h : b.out.filter Event.isRecord = []) : (extItem reg x value p b).out.filter Event.isRecord = [] := by
  rcases extItem_cases reg x value p b with ⟨-, he⟩ | ⟨d, -, -, he⟩ | ⟨d, -, -, he⟩ <;> rw [he]
  · exact (filter_isRecord_raise _ _).trans h
  · exact (filter_isRecord_raise _ _).trans h
  · exact h

theorem extLoop_no_record (reg : Registry) (rest : List Byte) (p : Nat) {b : Blk} (h : b.out.filter Event.isRecord = []) :
    (extLoop reg rest.length rest p b).out.filter Event.isRecord = [] := by
  obtain ⟨-, hend⟩ := extLoop_keeps (P := fun _ _ b => b.out.filter Event.isRecord = []) (reg := reg) (p := p)
    (fun _ _ _ p _ h => extItem_no_record reg _ _ p h) (fun _ _ _ h => (filter_isRecord_raise _ _).trans h)
    (le_refl rest.length) h
  exact hend

theorem decodeExt_no_record (reg : Registry) (rest : List Byte) (off stop tagAt : Nat) :
    (decodeExt reg rest off stop tagAt).1.out.filter Event.isRecord = [] := by
  rcases Nat.lt_or_ge rest.length 2 with hshort | hblock
  · rw [decodeExt_of_short hshort]
    rfl
  · rw [decodeExt_of_block hblock]
    refine extLoop_no_record reg _ _ ?_
    unfold blockErrors
    split <;> rfl

theorem mainItem_no_record (reg : Registry) (t : Byte) (value : List Byte) (stop : Nat) {d : Dec}
    (h : d.out.filter Event.isRecord = []) : (mainItem reg t value stop d).out.filter Event.isRecord = [] := by
  rcases mainItem_cases reg t value stop d with ⟨-, he⟩ | ⟨f, -, -, he⟩ | ⟨f, -, -, he⟩ <;> rw [he]
  · exact (filter_isRecord_raise _ _).trans h
  · exact (filter_isRecord_raise _ _).trans h
  · exact h

theorem mainRound_no_record (reg : Registry) (stop : Nat) (t : Byte) (rest : List Byte) {d : Dec}
    (h : d.out.filter Event.isRecord = []) : (mainRound reg stop t rest d).out.filter Event.isRecord = [] := by
  unfold mainRound
  split
  · exact (List.filter_append _ _).trans (by rw [h, decodeExt_no_record, List.append_nil])
  · exact mainItem_no_record reg t _ stop h

/-- The decoder's own events hold no Record: the loop over the segments emits it (R170, R257). -/
theorem decodeRecord_no_record (reg : Registry) (body : List Byte) (start stop : Nat) (imei : Option (List Byte)) :
    (decodeRecord reg body start stop imei).out.filter Event.isRecord = [] :=
  decodeRecord_keeps (P := fun _ d => d.out.filter Event.isRecord = []) (fun t rest _ => mainRound_no_record reg stop t rest) rfl

/-- Exactly one Record per segment (R226). -/
theorem decodeSegments_record_count (reg : Registry) (body : List Byte) (segs : List (Nat × Nat)) (imei : Option (List Byte)) :
    ((decodeSegments reg body segs imei).2.filter Event.isRecord).length = segs.length := by
  induction segs generalizing imei with
  | nil => rfl
  | cons seg segs ih =>
    simp only [decodeSegments, List.filter_append, decodeRecord_no_record, List.nil_append]
    exact congrArg Nat.succ (ih _)

/-- Orphan bytes are told by an error, which is no Record (R257). -/
theorem processTelemetry_record_count (reg : Registry) (f : Frame) (imei : Option (List Byte)) :
    ((processTelemetry reg f imei).2.filter Event.isRecord).length = (split f.body f.len).1.length := by
  rw [processTelemetry_eq, ← decodeSegments_record_count reg f.body _ imei, List.filter_append]
  split <;> rfl

/-- The `Frame` event and the acknowledgement around a frame's events are no Records (R259). -/
theorem filter_isRecord_framed (cls : FrameClass) (hdr : Byte) (ap : Bool) (body ack : List Byte) (evs : List Event) :
    (Event.frame cls hdr ap body :: evs ++ [Event.ackRequired ack]).filter Event.isRecord = evs.filter Event.isRecord := by
  rw [List.filter_append]
  exact List.append_nil _

/-- Settles O48: a Telemetry frame's Records are those of its segments, and no other frame has any. -/
theorem oneRecordPerSegment : Obligations.OneRecordPerSegment := by
  intro reg f imei
  split
  · next h =>
    rw [completeFrame_of_telemetry reg h, ← processTelemetry_record_count reg f imei]
    exact congrArg List.length (filter_isRecord_framed _ _ _ _ _ _)
  · next h =>
    rw [completeFrame_of_not_telemetry reg h]
    rfl

end Sys2Proof.Machine
end

section
/-! SUPPORT. AckEncoder: BUILD_ACK by its forms, and the one acknowledgement a delimited frame ends with. The decoder's events inside
such a frame are errors and Records, for its segments lie in its body (R223, R235 to R238, R256, R257, R259). -/

namespace Sys2Proof.Machine
open Sys2Proof

theorem exec_buildAck (form : AckForm) (s : State) : exec (.buildAck form) s = .next (s.done (.ack (ackBytes form)) []) := rfl

/-- Settles O37: the operation's equation, once for each form. -/
theorem buildAckCompletes : Obligations.BuildAckCompletes := fun k s =>
  ⟨exec_buildAck (.normal k) s, exec_buildAck .reject s⟩

/-- Rising markers below `L` cut segments that lie below `L`. -/
theorem segmentsOf_inside {ps : List Nat} {L : Nat} (hrise : ps.Pairwise (· < ·)) (hbelow : ∀ p ∈ ps, p < L) :
    ∀ seg ∈ segmentsOf ps L, seg.1 ≤ seg.2 ∧ seg.2 ≤ L := by
  induction ps with
  | nil => nofun
  | cons p ps ih =>
    obtain ⟨hnext, hrest⟩ := List.pairwise_cons.1 hrise
    obtain ⟨hp, hps⟩ := List.forall_mem_cons.1 hbelow
    rw [segmentsOf_cons]
    refine List.forall_mem_cons.2 ⟨?_, ih hrest hps⟩
    cases ps with
    | nil => exact ⟨hp.le, le_rfl⟩
    | cons q ps => exact ⟨(hnext q List.mem_cons_self).le, (hps q List.mem_cons_self).le⟩

/-- The segments of a body lie in it (R221, R223). -/
theorem split_inside (body : List Byte) :
    ∀ seg ∈ (split body body.length).1, seg.1 ≤ seg.2 ∧ seg.2 ≤ body.length := by
  rcases Nat.lt_or_ge body.length 32 with hshort | hlong
  · rw [split_of_short body hshort]
    exact List.forall_mem_singleton.2 ⟨Nat.zero_le _, le_rfl⟩
  · rw [split_of_long body hlong, markersFrom_zero_eq_filter]
    exact segmentsOf_inside (List.pairwise_lt_range.filter _) fun p hp => List.mem_range.1 (List.mem_filter.1 hp).1

theorem ErrorsIn.no_ack {lo hi : Nat} {out : List Event} (h : ErrorsIn lo hi out) : out.filter Event.isAck = [] := by
  refine List.filter_eq_nil_iff.2 fun e he => ?_
  obtain ⟨err, pos, rfl, -⟩ := h e he
  exact Bool.false_ne_true

/-- Segments inside the body yield errors and Records, and no acknowledgement (R257). -/
theorem decodeSegments_no_ack (reg : Registry) {body : List Byte} {segs : List (Nat × Nat)}
    (hin : ∀ seg ∈ segs, seg.1 ≤ seg.2 ∧ seg.2 ≤ body.length) (imei : Option (List Byte)) :
    (decodeSegments reg body segs imei).2.filter Event.isAck = [] := by
  induction segs generalizing imei with
  | nil => rfl
  | cons seg segs ih =>
    obtain ⟨⟨hle, hstop⟩, hrest⟩ := List.forall_mem_cons.1 hin
    have herrors := (decodeRecord_inside reg imei hle hstop).errors
    simp only [decodeSegments, List.filter_append, herrors.no_ack, List.nil_append]
    exact ih hrest _

theorem processTelemetry_no_ack (reg : Registry) {f : Frame} (hlen : f.len = f.body.length) (imei : Option (List Byte)) :
    (processTelemetry reg f imei).2.filter Event.isAck = [] := by
  rw [processTelemetry_eq, hlen, List.filter_append, decodeSegments_no_ack reg (split_inside f.body)]
  split <;> rfl

/-- Whatever its class, a frame as long as its body emits an acknowledgement behind events that are none (R256, R259). -/
theorem completeFrame_ends_with_ack (reg : Registry) {f : Frame} (hlen : f.len = f.body.length) (imei : Option (List Byte)) :
    ∃ evs, evs.filter Event.isAck = [] ∧ (completeFrame reg f imei).2 = evs ++ [.ackRequired (buildAck f.checksum)] := by
  by_cases htelemetry : f.hdr = 0x01
  · rw [completeFrame_of_telemetry reg htelemetry]
    exact ⟨.frame .telemetry 0x01 f.ap f.body :: _, processTelemetry_no_ack reg hlen imei, rfl⟩
  · rw [completeFrame_of_not_telemetry reg htelemetry]
    exact ⟨[.frame (classify f.hdr) f.hdr f.ap f.body], rfl, rfl⟩

/-- An acknowledgement behind events that are none is the only one, and the last event (R238). -/
theorem ack_once_and_last {evs : List Event} (h : evs.filter Event.isAck = []) (bytes : List Byte) :
    (evs ++ [Event.ackRequired bytes]).filter Event.isAck = [.ackRequired bytes]
      ∧ (evs ++ [Event.ackRequired bytes]).getLast? = some (.ackRequired bytes) :=
  ⟨by rw [List.filter_append, h]; rfl, List.getLast?_concat⟩

/-- A frame extracted has the length of its body (R145). -/
theorem tryExtract_complete_len {max : Nat} {B : List Byte} {f : Frame} {T : Nat} (h : tryExtract max B = .complete f T) :
    f.len = f.body.length := by
  obtain ⟨-, rfl, hT, rfl, -⟩ := tryExtract_complete h
  rw [slice_length]
  dsimp only
  omega

/-- Settles O47: result by result, the events a frame step emits. -/
theorem oneAcknowledgementLast : Obligations.OneAcknowledgementLast := by
  intro cfg reg c c' evs h
  rcases Session.frameStep_cases h with ⟨L, k, hr, -, rfl⟩ | ⟨rx, computed, T, hr, -, rfl⟩ | ⟨f, T, hr, -, rfl⟩ <;>
    simp only [hr]
  · rfl
  · exact ack_once_and_last (evs := [.protocolError (.checksumMismatch rx computed T)]) rfl ackRejectBytes
  · obtain ⟨before, hbefore, hevs⟩ := completeFrame_ends_with_ack reg (tryExtract_complete_len hr) c.lastIMEI
    rw [hevs]
    exact ack_once_and_last hbefore (buildAck f.checksum)

end Sys2Proof.Machine
end

section
/-! SUPPORT. FRAME_STEP, FEED and CLOSE presented alone: the context each looks for decides how it ends (R252, R253, R256, R262,
R299). -/

namespace Sys2Proof.Machine
open Sys2Proof

theorem findCtx_waitingPhase_none {s : State} {cid : Nat} :
    s.findCtx waitingPhase cid = none ↔ ∀ c ∈ s.ctxs, c.phase = .awaitingData → c.cid ≠ cid := by
  simp [State.findCtx_none, waitingPhase]

section
variable {cid t k : Nat} {chunk : List Byte} {s : State} {c : Session}

theorem exec_frameStep_of_not_due (h : s.findCtx duePhase cid = none) :
    exec (.frameStep cid) s = .refused .noFrameStepDue := by
  change execFrameStep cid s = _
  rw [execFrameStep, h]

theorem State.frameStepAt_of_none (h : c.frameStep s.cfg s.reg = none) (k : Nat) :
    s.frameStepAt k c = .refused .noCompleteFrame := by
  rw [State.frameStepAt, h]

theorem exec_feed_of_empty (ht : t < 2 ^ s.cfg.tsW) (hfind : s.findCtx waitingPhase cid = some (k, c)) :
    exec (.feed cid [] t) s = .next { s with ret := ⟨.nothing, []⟩ } := by
  simp [exec, execFeed, ht, hfind]

theorem exec_feed_of_waiting (ht : t < 2 ^ s.cfg.tsW) (hfind : s.findCtx waitingPhase cid = some (k, c)) (hchunk : chunk ≠ []) :
    exec (.feed cid chunk t) s = .next ((s.setCtx k (c.fed s.cfg chunk t)).done .nothing []) := by
  simp [exec, execFeed, ht, hfind, hchunk, Session.fed]

theorem exec_feed_of_not_waiting (ht : t < 2 ^ s.cfg.tsW) (hfind : s.findCtx waitingPhase cid = none) :
    exec (.feed cid chunk t) s = .refused .notAwaitingData := by
  simp [exec, execFeed, ht, hfind]

theorem exec_feed_of_wide (ht : 2 ^ s.cfg.tsW ≤ t) : exec (.feed cid chunk t) s = .refused .operandTooWide := by
  change execFeed cid chunk t s = _
  rw [execFeed, if_neg (Nat.not_lt.2 ht)]

theorem exec_closeSession_of_open (hfind : s.findCtx openPhase cid = some (k, c)) (reason : HostReason) :
    exec (.closeSession cid reason) s = .next (s.closeContext k c (closeReasonOf reason)) := by
  change execCloseSession cid reason s = _
  rw [execCloseSession, hfind]

theorem exec_closeSession_of_closed (hfind : s.findCtx openPhase cid = none) (reason : HostReason) :
    exec (.closeSession cid reason) s = .refused .cidNotOpen := by
  change execCloseSession cid reason s = _
  rw [execCloseSession, hfind]

end

/-- Settles O45: the operation is the frame step of the context found, which is defined unless TRY_EXTRACT waits. -/
theorem frameStepCompletes : Obligations.FrameStepCompletes := by
  intro cid s
  refine ⟨fun k c hfind => ?_, exec_frameStep_of_not_due⟩
  obtain ⟨-, -, hcid⟩ := State.findCtx_some hfind
  rw [exec_frameStep_of_due hfind]
  refine ⟨fun hready => ?_,
    fun hwaits => State.frameStepAt_of_none (s := { s with cur := k }) (Session.frameStep_none.2 hwaits) k⟩
  obtain ⟨⟨c', evs⟩, hstep⟩ := Option.ne_none_iff_exists'.1 (mt Session.frameStep_none.1 hready)
  exact ⟨_, c', evs, State.frameStepAt_of_some hstep, hstep, rfl, rfl, hcid, rfl, State.sameSetup_refl s⟩

/-- Settles O51: the width of the timestamp, the search for a waiting session and the chunk decide how FEED ends. -/
theorem feedCompletes : Obligations.FeedCompletes := by
  intro cid t chunk s
  refine ⟨fun ht => ⟨fun k c hfind => ⟨fun hempty => ?_, fun hchunk => ?_⟩, fun hnone => ?_⟩, exec_feed_of_wide⟩
  · rw [hempty]
    exact exec_feed_of_empty ht hfind
  · exact ⟨_, exec_feed_of_waiting ht hfind hchunk, rfl, rfl, rfl, State.sameSetup_refl s⟩
  · exact exec_feed_of_not_waiting ht (findCtx_waitingPhase_none.2 hnone)

/-- Settles O52: the search for an open session decides; the one found is closed. -/
theorem closeCompletes : Obligations.CloseCompletes := by
  intro cid reason s
  refine ⟨fun k c hfind => ?_, fun hnone => exec_closeSession_of_closed (findCtx_openPhase_none.2 hnone) reason⟩
  exact ⟨_, _, exec_closeSession_of_open hfind reason, rfl, rfl, rfl, rfl, rfl, rfl, State.sameSetup_refl s⟩

end Sys2Proof.Machine
end

section
/-! SUPPORT. An undisturbed FEED run step by step: while one context alone has a step to make and the oracle is empty, that context
moves, by the frame steps of the extraction loop and then by the end of its FEED (R252, R255, R260, R263, R265). -/

namespace Sys2Proof.Machine
open Sys2Proof

/-! ### Runs -/

theorem run_of_step {M : Host.Core} {s u : M.State} (h : M.step s = .next u) (n : Nat) : M.run (n + 1) s = M.run n u := by
  rw [Host.Core.run, h]

/-- A step behind a run. -/
theorem run_succ {M : Host.Core} {n : Nat} {s u v : M.State} (h : M.run n s = .next u) (hlast : M.step u = .next v) :
    M.run (n + 1) s = .next v := by
  induction n generalizing s with
  | zero => cases h; exact run_of_step hlast 0
  | succ n ih =>
    rw [Host.Core.run] at h
    split at h
    · next s' hstep => rw [run_of_step hstep]; exact ih h
    · cases h
    · cases h

/-! ### The session along the extraction loop -/

/-- A frame step leaves the session its number and cid, so its events are logged as before (R35). -/
theorem Session.logged_of_frameStep {cfg : Config} {reg : Registry} {c c' : Session} {evs : List Event}
    (h : c.frameStep cfg reg = some (c', evs)) : c'.logged = c.logged := by
  obtain ⟨-, -, -, -, -, hsame, -⟩ := frameStepConsumes cfg reg c c' evs h
  rw [hsame]
  rfl

theorem drained_logged (cfg : Config) (reg : Registry) (c : Session) : (drained cfg reg c).1.logged = c.logged := by
  induction c using Session.drain_induction (cfg := cfg) (reg := reg) with
  | waits c hf => rw [drained_of_waiting hf]
  | steps c c' evs hf ih => rw [drained_of_frameStep hf, ih, Session.logged_of_frameStep hf]

theorem Session.logged_append (c : Session) (evs evs' : List Event) :
    c.logged (evs ++ evs') = c.logged evs ++ c.logged evs' := List.map_append

/-- A frame step leaves the phase its buffer calls for (R260). -/
theorem Session.phase_of_frameStep {cfg : Config} {reg : Registry} {c c' : Session} {evs : List Event}
    (h : c.frameStep cfg reg = some (c', evs)) : c'.phase = phaseAfter cfg c'.buf := by
  obtain ⟨-, -, -, -, -, -, hphase⟩ := frameStepConsumes cfg reg c c' evs h
  exact hphase

/-- The loop begun in the phase the buffer calls for ends in Idle. -/
theorem drained_idle {cfg : Config} (reg : Registry) {c : Session} (h : c.phase = phaseAfter cfg c.buf) :
    (drained cfg reg c).1.phase = .idle := by
  induction c using Session.drain_induction (cfg := cfg) (reg := reg) with
  | waits c hf => rw [drained_of_waiting hf, h, phaseAfter, if_pos (Session.frameStep_none.1 hf)]
  | steps c c' evs hf ih => rw [drained_of_frameStep hf]; exact ih (Session.phase_of_frameStep hf)

/-! ### The one context that moves -/

theorem Session.isDue_iff {c : Session} : c.isDue = true ↔ c.phase = .hasCompleteFrames ∨ c.phase = .idle := by
  simp [Session.isDue]

/-- The oracle is empty and no context but `k` has a step of its own to make. -/
structure State.OnlyDue (s : State) (k : Nat) : Prop where
  sched  : s.sched = []
  others : ∀ j d, s.ctxs[j]? = some d → j ≠ k → d.isDue = false

section
variable {s t : State} {k : Nat} {c : Session}

/-- Writing the one context keeps it so. -/
theorem State.OnlyDue.set (h : s.OnlyDue k) (hsched : t.sched = s.sched) (hctxs : t.ctxs = s.ctxs.set k c) : t.OnlyDue k where
  sched := hsched.trans h.sched
  others j d hd hjk := h.others j d (by rwa [hctxs, List.getElem?_set_ne hjk.symm] at hd) hjk

/-- A context that is due is the one. -/
theorem State.OnlyDue.eq_of_due (h : s.OnlyDue k) {j : Nat} {d : Session} (hd : s.ctxs[j]? = some d) (hdue : d.isDue = true) :
    j = k := by
  by_contra hne
  rw [h.others j d hd hne] at hdue
  cases hdue

/-- The one due context moves. -/
theorem State.OnlyDue.pick (h : s.OnlyDue k) (hc : s.ctxs[k]? = some c) (hdue : c.isDue = true) :
    s.pick = some (.session k) := by
  have hdefault : s.pick = s.defaultTurn := by rw [State.pick, h.sched]
  rw [hdefault]
  rcases s.defaultTurn_cases with ⟨j, hj, hjdue⟩ | ⟨hnone, -⟩
  · unfold State.due at hjdue
    split at hjdue
    · next d hd => rw [hj, h.eq_of_due hd hjdue]
    · cases hjdue
  · rw [hnone c (List.mem_of_getElem? hc)] at hdue
    cases hdue

/-- The one context whose frame step is due is found by its cid. -/
theorem State.OnlyDue.findCtx_due (h : s.OnlyDue k) (hc : s.ctxs[k]? = some c) (hdue : c.phase = .hasCompleteFrames) :
    s.findCtx duePhase c.cid = some (k, c) := by
  cases hfind : s.findCtx duePhase c.cid with
  | none => exact absurd rfl (State.findCtx_none.1 hfind c (List.mem_of_getElem? hc) (by simp [hdue, duePhase]))
  | some found =>
    obtain ⟨j, d⟩ := found
    obtain ⟨hd, hphase, -⟩ := State.findCtx_some hfind
    have hddue : d.phase = .hasCompleteFrames := by simpa [duePhase] using hphase
    have hjk : j = k := h.eq_of_due hd (Session.isDue_iff.2 (.inl hddue))
    rw [hjk, hc, Option.some.injEq] at hd
    rw [hjk, hd]

/-- Its step is its frame step, by the row of the frame at the front of its buffer or by FRAME_STEP. No invariant is asked for here:
that no other context is due takes its place. -/
theorem State.OnlyDue.step_due (h : s.OnlyDue k) (hc : s.ctxs[k]? = some c) (hdue : c.phase = .hasCompleteFrames) :
    step s = { s with sched := s.sched.tail, cur := k }.frameStepAt k c := by
  have hpick := h.pick hc (Session.isDue_iff.2 (.inl hdue))
  cases hd : decode s.reg .frameHdr c.buf with
  | error e =>
    rw [step_session_frameStep hpick hc hdue hd]
    exact exec_frameStep_of_due (s := { s with sched := s.sched.tail, cur := k }) (h.findCtx_due hc hdue)
  | ok r =>
    obtain ⟨i, left⟩ := r
    obtain ⟨hwhole, -, rfl⟩ := decodeFrame_ok hd
    rw [step_session_frame hpick hc hdue hd, exec_frameInstr]
    exact State.frameRow_of_front (s := { s with sched := s.sched.tail, cur := k }) hc hdue ⟨_, frameBytes_of_read hwhole⟩

/-- One round of the loop, as a step. -/
theorem State.OnlyDue.step_round (h : s.OnlyDue k) (hc : s.ctxs[k]? = some c) (hphase : c.phase = phaseAfter s.cfg c.buf)
    {c' : Session} {evs : List Event} (hf : c.frameStep s.cfg s.reg = some (c', evs)) :
    ∃ u, step s = .next u ∧ u.ctxs = s.ctxs.set k c' ∧ u.log = s.log ++ c.logged evs ∧ s.SameSetup u := by
  have hready : tryExtract s.cfg.maxBodyLen c.buf ≠ .incomplete := fun hwaits => by
    rw [Session.frameStep_none.2 hwaits] at hf; cases hf
  have hdue : c.phase = .hasCompleteFrames := by rw [hphase, phaseAfter, if_neg hready]
  have hsched : s.sched.tail = s.sched := by rw [h.sched]; rfl
  rw [h.step_due hc hdue, hsched, State.frameStepAt_of_some (s := { s with cur := k }) hf]
  exact ⟨_, rfl, rfl, rfl, State.sameSetup_refl s⟩

end

/-- The steps of the one due context make the extraction loop, in no more steps than its buffer has bytes. -/
theorem run_drained {cfg : Config} {reg : Registry} {s : State} {k : Nat} {c : Session} (hcfg : s.cfg = cfg) (hreg : s.reg = reg)
    (honly : s.OnlyDue k) (hc : s.ctxs[k]? = some c) (hphase : c.phase = phaseAfter cfg c.buf) :
    ∃ n u, n ≤ c.buf.length ∧ Sys2Proof.core.run n s = .next u ∧ u.ctxs = s.ctxs.set k (drained cfg reg c).1
      ∧ u.log = s.log ++ c.logged (drained cfg reg c).2 ∧ s.SameSetup u := by
  obtain ⟨hk, -⟩ := List.getElem?_eq_some_iff.1 hc
  induction c using Session.drain_induction (cfg := cfg) (reg := reg) generalizing s with
  | waits c hf =>
    have hset : s.ctxs = s.ctxs.set k c := by
      obtain ⟨-, rfl⟩ := List.getElem?_eq_some_iff.1 hc
      rw [List.set_getElem_self]
    rw [drained_of_waiting hf]
    exact ⟨0, s, Nat.zero_le _, rfl, hset, (List.append_nil _).symm, State.sameSetup_refl s⟩
  | steps c c' evs hf ih =>
    subst hcfg hreg
    obtain ⟨t, hstep, hctxs, hlog, hsetup⟩ := honly.step_round hc hphase hf
    have ⟨htcfg, htreg, _, _, htsched, _⟩ := hsetup
    have hc' : t.ctxs[k]? = some c' := by rw [hctxs, List.getElem?_set_self hk]
    obtain ⟨n, u, hn, hrun, huctxs, hulog, husetup⟩ := ih htcfg htreg (honly.set htsched hctxs) hc'
      (Session.phase_of_frameStep hf) (by rwa [hctxs, List.length_set])
    refine ⟨n + 1, u, hn.trans_lt (Session.frameStep_buf hf).1, (run_of_step hstep n).trans hrun, ?_, ?_, hsetup.trans husetup⟩
    · rw [huctxs, hctxs, List.set_set, drained_of_frameStep hf]
    · rw [hulog, hlog, drained_of_frameStep hf, Session.logged_append, Session.logged_of_frameStep hf, List.append_assoc]

/-- With no context due and an operation in the queue, it is the host's turn (R265; log entry 8). -/
theorem State.pick_host_of_quiet {s : State} (hsched : s.sched = []) (hqueue : s.queue ≠ [])
    (hquiet : ∀ d ∈ s.ctxs, d.phase ≠ .hasCompleteFrames ∧ d.phase ≠ .idle) : s.pick = some .host := by
  have hnone : s.ctxs.findIdx? Session.isDue = none :=
    List.findIdx?_eq_none_iff.2 fun d hd => Session.isDue_eq_false_iff.2 (hquiet d hd)
  simp [State.pick, State.defaultTurn, hsched, hnone, hqueue]

/-- The step that presents a FEED to a quiet block: its chunk is appended, and its session alone is due (R252, R260). -/
theorem step_presents_feed {s : State} {cid t k : Nat} {chunk : List Byte} {c : Session} {rest : List HostOp}
    (hsched : s.sched = []) (hqueue : s.queue = .feed cid chunk t :: rest)
    (hquiet : ∀ d ∈ s.ctxs, d.phase ≠ .hasCompleteFrames ∧ d.phase ≠ .idle)
    (hfind : s.findCtx waitingPhase cid = some (k, c)) (hchunk : chunk ≠ []) (ht : t < 2 ^ s.cfg.tsW) :
    ∃ u, step s = .next u ∧ u.ctxs = s.ctxs.set k (c.fed s.cfg chunk t) ∧ u.log = s.log
      ∧ { s with queue := rest }.SameSetup u ∧ u.OnlyDue k := by
  have hpick : s.pick = some .host := State.pick_host_of_quiet hsched (by rw [hqueue]; exact List.cons_ne_nil _ _) hquiet
  have hstep := step_host hpick hqueue
  rw [hsched, List.tail_nil] at hstep
  have hfeed := exec_feed_of_waiting (s := { s with sched := [], queue := rest }) ht hfind hchunk
  have honly : s.OnlyDue k :=
    ⟨hsched, fun j d hd _ => Session.isDue_eq_false_iff.2 (hquiet d (List.mem_of_getElem? hd))⟩
  exact ⟨_, hstep.trans hfeed, rfl, rfl, ⟨rfl, rfl, rfl, rfl, hsched.symm, rfl, rfl⟩, honly.set hsched.symm rfl⟩

/-- The one context in Idle ends its FEED: back to AwaitingData, or closed by the stall test (R260, R263). -/
theorem State.OnlyDue.step_endFeed {s : State} {k : Nat} {c : Session} (h : s.OnlyDue k) (hc : s.ctxs[k]? = some c)
    (hidle : c.phase = .idle) :
    ∃ u, step s = .next u ∧ s.SameSetup u
      ∧ (stalled s.cfg c.buf = false → u.ctxs = s.ctxs.set k { c with phase := .awaitingData } ∧ u.log = s.log)
      ∧ (stalled s.cfg c.buf = true →
          (∃ c', u.ctxs = s.ctxs.set k c' ∧ c'.phase = .closed ∧ c'.buf = [] ∧ c'.lastIMEI = none)
          ∧ u.log = s.log ++ c.logged [.connectionClosed .stallLimit]) := by
  have hsched : s.sched.tail = s.sched := by rw [h.sched]; rfl
  rw [step_session_idle (h.pick hc (Session.isDue_iff.2 (.inr hidle))) hc hidle, hsched]
  rcases s.endFeed_cases k c with ⟨hstall, he⟩ | ⟨hcalm, he⟩ <;> rw [he]
  · exact ⟨_, rfl, State.sameSetup_refl s, fun hcalm => (nomatch hstall.symm.trans hcalm),
      fun _ => ⟨⟨_, rfl, rfl, rfl, rfl⟩, rfl⟩⟩
  · exact ⟨_, rfl, State.sameSetup_refl s, fun _ => ⟨rfl, rfl⟩, fun hstall => nomatch hcalm.symm.trans hstall⟩

/-- Settles O59: the presentation, the extraction loop and the end of the FEED, one after the other. -/
theorem stepsOfAFeedMakeTheTransaction : Obligations.StepsOfAFeedMakeTheTransaction := by
  intro s cid t k chunk c rest hsched hqueue hquiet hfind hchunk ht r
  obtain ⟨hc, -, -⟩ := State.findCtx_some hfind
  obtain ⟨hk, -⟩ := List.getElem?_eq_some_iff.1 hc
  have hlength : (c.fed s.cfg chunk t).buf.length = c.buf.length + chunk.length := List.length_append
  obtain ⟨s₁, hfirst, hctxs₁, hlog₁, hsetup₁, honly₁⟩ := step_presents_feed hsched hqueue hquiet hfind hchunk ht
  have hc₁ : s₁.ctxs[k]? = some (c.fed s.cfg chunk t) := by rw [hctxs₁, List.getElem?_set_self hk]
  have ⟨hcfg₁, hreg₁, _⟩ := hsetup₁
  obtain ⟨n, s₂, hn, hloop, hctxs₂, hlog₂, hsetup₂⟩ := run_drained hcfg₁ hreg₁ honly₁ hc₁ rfl
  have ⟨_, _, _, _, hsched₂, _⟩ := hsetup₂
  have honly₂ : s₂.OnlyDue k := honly₁.set hsched₂ hctxs₂
  rw [hctxs₁, List.set_set] at hctxs₂
  rw [hlog₁] at hlog₂
  have hc₂ : s₂.ctxs[k]? = some r.1 := by rw [hctxs₂, List.getElem?_set_self hk]; rfl
  obtain ⟨u, hlast, hsetup₃, hcalm, hstall⟩ := honly₂.step_endFeed hc₂ (drained_idle s.reg rfl)
  have hlogged : r.1.logged = c.logged := drained_logged s.cfg s.reg (c.fed s.cfg chunk t)
  obtain ⟨hcfg₂, -⟩ := hsetup₁.trans hsetup₂
  obtain ⟨hcfg, hreg, huqueue, hbench, -⟩ := (hsetup₁.trans hsetup₂).trans hsetup₃
  rw [hcfg₂, hctxs₂, hlog₂] at hcalm hstall
  simp only [List.set_set, hlogged] at hcalm hstall
  refine ⟨n + 2, u, by omega, run_succ ((run_of_step hfirst n).trans hloop) hlast, huqueue, hbench, hcfg, hreg, hcalm, ?_⟩
  intro h
  rw [Session.logged_append, ← List.append_assoc]
  exact hstall h

end Sys2Proof.Machine
end

section
/-! SUPPORT. AckEncoder and RESET: the checksum an acknowledgement carries, and the block after a reset (R38, R236, R330, R343). -/

namespace Sys2Proof.Machine
open Sys2Proof

/-- Settles O39: an acknowledgement's two checksum bytes, read back, are the checksum. -/
theorem sentinelAliasesOneChecksum : Obligations.SentinelAliasesOneChecksum := by
  intro k
  refine ⟨fun h => ?_, fun h => by rw [h]; rfl⟩
  have hbytes : halfBytes k = [0x3F, 0x00] := List.tail_eq_of_cons_eq h
  calc k = halfAt (halfBytes k ++ []) 0 := (halfAt_halfBytes k []).symm
    _ = 0x003F := by rw [hbytes]; rfl

/-- Settles O56: every context is one that CLOSE leaves. -/
theorem resetCompletes : Obligations.ResetCompletes := by
  intro s
  refine ⟨_, rfl, closeAll_length s.cfg s.free s.ctxs, fun c hc => ?_, rfl, rfl, s.sameSetup_refl⟩
  obtain ⟨n, rfl⟩ := mem_closeAll hc
  exact ⟨rfl, rfl, rfl⟩

end Sys2Proof.Machine
end

section
/-! SUPPORT. One changed byte under a checksum: every step of R120 is injective in the register and in the byte, so the register the
changed span leaves is another one; and a frame so changed in its head keeps everything else TRY_EXTRACT reads (R140, R349). -/

namespace Sys2Proof.Machine
open Sys2Proof

/-! ### The checksum -/

theorem crcShifts_inj (n : Nat) {x y : Half} : crcShifts n x = crcShifts n y ↔ x = y := by
  rw [← BitVec.xor_eq_zero_iff, ← crcShifts_xor]
  exact (crcShifts_eq_zero_iff n).trans BitVec.xor_eq_zero_iff

theorem crcByte_left_inj {c d : Half} {b : Byte} : crcByte c b = crcByte d b ↔ c = d := by
  rw [crcByte, crcByte, crcShifts_inj, BitVec.xor_left_inj]

theorem crcByte_right_inj {c : Half} {a b : Byte} : crcByte c a = crcByte c b ↔ a = b := by
  rw [crcByte, crcByte, crcShifts_inj, BitVec.xor_right_inj]
  refine ⟨fun h => ?_, fun h => by rw [h]⟩
  simpa using congrArg (BitVec.setWidth 8) h

/-- The bytes of a span never bring two registers together (R125). -/
theorem crcFrom_inj {c d : Half} (M : List Byte) : crcFrom c M = crcFrom d M ↔ c = d := by
  induction M generalizing c d with
  | nil => rfl
  | cons b M ih => exact ih.trans crcByte_left_inj

/-- Two spans that differ in one byte have different checksums. -/
theorem crc16_ne_of_one_byte {a b : Byte} (h : a ≠ b) (pre post : List Byte) :
    crc16 (pre ++ a :: post) ≠ crc16 (pre ++ b :: post) := by
  rw [crc16_append, crc16_append]
  exact fun heq => h (crcByte_right_inj.1 ((crcFrom_inj post).1 heq))

theorem crc16_set_ne {M : List Byte} {i : Nat} {b : Byte} (hi : i < M.length) (hb : b ≠ byteAt M i) :
    crc16 (M.set i b) ≠ crc16 M := by
  have hat : byteAt M i = M[i] := List.getD_eq_getElem M 0 hi
  have hsplit : M = M.take i ++ byteAt M i :: M.drop (i + 1) := by
    rw [hat, List.getElem_cons_drop, List.take_append_drop]
  rw [List.set_eq_take_append_cons_drop, if_pos hi]
  conv => rhs; rw [hsplit]
  exact crc16_ne_of_one_byte hb _ _

/-! ### The bytes not changed -/

theorem byteAt_set_self {S : List Byte} {i : Nat} (hi : i < S.length) (b : Byte) : byteAt (S.set i b) i = b := by
  simp [byteAt, hi]

theorem byteAt_set_ne {S : List Byte} {i o : Nat} (h : i ≠ o) (b : Byte) : byteAt (S.set i b) o = byteAt S o := by
  simp [byteAt, List.getElem?_set_ne h]

theorem halfAt_set_of_outside {S : List Byte} {i o : Nat} (h : i ≠ o) (h' : i ≠ o + 1) (b : Byte) :
    halfAt (S.set i b) o = halfAt S o := by
  simp only [halfAt, u16le, u8, byteAt_set_ne h, byteAt_set_ne h']

/-- The flag's bit is none of the seven the declared length has in its byte (R81). -/
theorem toNat_xor_flag (b : Byte) : (b ^^^ 0x80).toNat % 128 = b.toNat % 128 := by
  calc (b.toNat ^^^ 128) % 2 ^ 7 = b.toNat % 2 ^ 7 ^^^ 128 % 2 ^ 7 := Nat.xor_mod_two_pow
    _ = b.toNat % 128 := Nat.xor_zero _

theorem frontLength_flip_flag {B : List Byte} (h : 3 ≤ B.length) :
    frontLength (B.set 2 (byteAt B 2 ^^^ 0x80)) = frontLength B := by
  have hflag := toNat_xor_flag (byteAt B 2)
  have hlow : byteAt (B.set 2 (byteAt B 2 ^^^ 0x80)) 1 = byteAt B 1 := byteAt_set_ne (by decide) _
  have hhigh : byteAt (B.set 2 (byteAt B 2 ^^^ 0x80)) 2 = byteAt B 2 ^^^ 0x80 := byteAt_set_self h _
  simp only [frontLength_eq, u16le, u8, hlow, hhigh, Nat.reduceAdd]
  omega

theorem frontLength_set_header (B : List Byte) (hdr : Byte) : frontLength (B.set 0 hdr) = frontLength B := by
  rw [frontLength, halfAt_set_of_outside (by decide) (by decide)]

/-! ### The frame -/

/-- A valid frame with one byte before its checksum changed, its declared length kept, is a frame with a wrong checksum (R144). -/
theorem tryExtract_of_changed_byte {max : Nat} {B : List Byte} {f : Frame} {T i : Nat} {b : Byte}
    (h : tryExtract max B = .complete f T) (hi : i < frontLength B + 3) (hb : b ≠ byteAt B i)
    (hlength : frontLength (B.set i b) = frontLength B) :
    ∃ computed, tryExtract max (B.set i b) = .badChecksum f.checksum computed T ∧ computed ≠ f.checksum := by
  obtain ⟨hmax, rfl, hwhole, rfl, hcrc⟩ := tryExtract_complete h
  have hreceived : halfAt (B.set i b) (frontLength B + 3) = halfAt B (frontLength B + 3) :=
    halfAt_set_of_outside (by omega) (by omega) b
  have hcovered : byteAt (B.take (frontLength B + 3)) i = byteAt B i := by
    simp [byteAt, List.getElem?_take_of_lt hi]
  have hwrong : crc16 ((B.set i b).take (frontLength B + 3)) ≠ halfAt B (frontLength B + 3) := by
    rw [List.take_set]
    exact (crc16_set_ne (by rw [List.length_take]; omega) (hcovered ▸ hb)).trans_eq hcrc
  have hanswer := tryExtract_of_wrong_checksum (max := max) (B := B.set i b)
  rw [hlength, hreceived, List.length_set] at hanswer
  exact ⟨_, hanswer hmax hwhole hwrong, hwrong⟩

/-- Settles O15: the flag's byte and the header byte stand under the checksum, and neither declares a length. -/
theorem flippedFlagBreaksChecksum : Obligations.FlippedFlagBreaksChecksum := by
  intro max B f T h
  obtain ⟨-, rfl, hwhole, hf, -⟩ := tryExtract_complete h
  refine ⟨?flag, fun hdr hne => ?header⟩
  case flag =>
    have hflip : byteAt B 2 ^^^ 0x80 ≠ byteAt B 2 := by simp
    exact tryExtract_of_changed_byte h (by omega) hflip (frontLength_flip_flag (by omega))
  case header =>
    rw [hf] at hne
    exact tryExtract_of_changed_byte h (by omega) hne (frontLength_set_header B hdr)

end Sys2Proof.Machine
end

section
/-! SUPPORT. The powers of the parties: what an operation of the host can do to the contexts and the log, and what of a context that
stays open a step can change (R190, R252, R262, R311, R330). -/

namespace Sys2Proof.Machine
open Sys2Proof

/-! ### The host -/

/-- Everything an operation of the host that completes can do to the contexts and the log. -/
inductive HostEffect (o : HostOp) (s t : State) : Prop
  /-- FEED of no bytes, REGISTER_TAG. -/
  | quiet (ctxs : t.ctxs = s.ctxs) (log : t.log = s.log)
  /-- OPEN takes a Closed context (R250). -/
  | opened (k : Nat) (d c' : Session) (at_k : s.ctxs[k]? = some d) (isClosed : d.isOpen = false)
      (ctxs : t.ctxs = s.ctxs.set k c') (log : t.log = s.log)
  /-- FEED of a non-empty chunk (R252). -/
  | fed (k : Nat) (c : Session) (chunk : List Byte) (tm : Nat) (op : o = .feed c.cid chunk tm) (at_k : s.ctxs[k]? = some c)
      (ctxs : t.ctxs = s.ctxs.set k (c.fed s.cfg chunk tm)) (log : t.log = s.log)
  /-- CLOSE (R262). -/
  | closed (k : Nat) (c c' : Session) (reason : HostReason) (op : o = .closeSession c.cid reason) (at_k : s.ctxs[k]? = some c)
      (isClosed : c'.phase = .closed) (ctxs : t.ctxs = s.ctxs.set k c')
      (log : t.log = s.log ++ c.logged [.connectionClosed (closeReasonOf reason)])
  /-- RESET (R330). -/
  | reset (n : Nat) (op : o = .resetBlock) (ctxs : t.ctxs = closeAll s.cfg n s.ctxs) (log : t.log = s.log)

theorem HostEffect.of_exec {o : HostOp} {s t : State} (h : exec o.instr s = .next t) : HostEffect o s t := by
  cases o with
  | openSession cid tm =>
    obtain ⟨-, -, -, k, hfree, rfl⟩ := execOpenSession_next h
    obtain ⟨d, hd, hclosed⟩ := State.freeContext_some hfree
    exact .opened k d _ hd hclosed rfl rfl
  | feed cid chunk tm =>
    obtain ⟨-, k, c, hfind, ⟨-, rfl⟩ | ⟨-, rfl⟩⟩ := execFeed_next h
    · exact .quiet rfl rfl
    · obtain ⟨hc, -, rfl⟩ := State.findCtx_some hfind
      exact .fed k c chunk tm rfl hc rfl rfl
  | closeSession cid reason =>
    obtain ⟨k, c, hfind, rfl⟩ := execCloseSession_next h
    obtain ⟨hc, -, rfl⟩ := State.findCtx_some hfind
    exact .closed k c _ reason rfl hc rfl rfl rfl
  | registerTag id kind label =>
    obtain ⟨-, -, rfl⟩ := execRegisterTag_next h
    exact .quiet rfl rfl
  | resetBlock => cases h; exact .reset s.free rfl rfl rfl

theorem phaseAfter_ne_closed (cfg : Config) (buf : List Byte) : phaseAfter cfg buf ≠ .closed := by
  unfold phaseAfter
  split <;> decide

/-- What the host does to one open context by the operation `o`: nothing; a FEED of its cid, which leaves it open; or a CLOSE of its
cid or a RESET (R311). -/
def Session.HostMove (o : HostOp) (c c' : Session) : Prop :=
  c' = c
    ∨ (c'.phase ≠ .closed ∧ ∃ chunk tm, o = .feed c.cid chunk tm
        ∧ c' = { c with buf := c.buf ++ chunk, lastActivityAt := tm, phase := c'.phase })
    ∨ (c'.phase = .closed ∧ (o = .resetBlock ∨ ∃ reason, o = .closeSession c.cid reason))

/-- After the context at `k` is written, the one at `j` is as it was, unless it is the one written. -/
theorem getElem?_set_cases {l : List Session} {j k : Nat} {c d : Session} (hd : l[k]? = some d) (hc : l[j]? = some c)
    (a : Session) : (l.set k a)[j]? = some c ∨ (d = c ∧ (l.set k a)[j]? = some a) := by
  obtain ⟨hj, -⟩ := List.getElem?_eq_some_iff.1 hc
  by_cases hkj : k = j
  · subst hkj
    exact .inr ⟨Option.some.inj (hd.symm.trans hc), List.getElem?_set_self hj⟩
  · exact .inl (by rw [List.getElem?_set_ne hkj, hc])

theorem HostEffect.on_open_context {o : HostOp} {s t : State} (h : HostEffect o s t) {j : Nat} {c : Session}
    (hc : s.ctxs[j]? = some c) (hopen : c.phase ≠ .closed) : ∃ c', t.ctxs[j]? = some c' ∧ c.HostMove o c' := by
  cases h with
  | quiet ctxs => exact ⟨c, ctxs ▸ hc, .inl rfl⟩
  | opened k d c' at_k isClosed ctxs =>
    rw [ctxs]
    rcases getElem?_set_cases at_k hc c' with hother | ⟨rfl, -⟩
    · exact ⟨c, hother, .inl rfl⟩
    · rw [(Session.isOpen_iff d).2 hopen] at isClosed
      cases isClosed
  | fed k d chunk tm op at_k ctxs =>
    rw [ctxs]
    rcases getElem?_set_cases at_k hc (d.fed s.cfg chunk tm) with hother | ⟨rfl, hsame⟩
    · exact ⟨c, hother, .inl rfl⟩
    · exact ⟨_, hsame, .inr (.inl ⟨phaseAfter_ne_closed _ _, chunk, tm, op, rfl⟩)⟩
  | closed k d c' reason op at_k isClosed ctxs =>
    rw [ctxs]
    rcases getElem?_set_cases at_k hc c' with hother | ⟨rfl, hsame⟩
    · exact ⟨c, hother, .inl rfl⟩
    · exact ⟨c', hsame, .inr (.inr ⟨isClosed, .inr ⟨reason, op⟩⟩)⟩
  | reset n op ctxs =>
    obtain ⟨hj, -⟩ := List.getElem?_eq_some_iff.1 hc
    have hlen : j < (closeAll s.cfg n s.ctxs).length := by rw [closeAll_length]; exact hj
    obtain ⟨m, hm⟩ := mem_closeAll (List.getElem_mem hlen)
    rw [ctxs]
    exact ⟨_, List.getElem?_eq_getElem hlen, .inr (.inr ⟨by rw [hm]; rfl, .inl op⟩)⟩

/-- The host leaves the IMEI of a context that stays open alone (R190). -/
theorem Session.HostMove.keeps_imei {o : HostOp} {c c' : Session} (h : c.HostMove o c') (hopen : c'.phase ≠ .closed) :
    c'.lastIMEI = c.lastIMEI := by
  rcases h with rfl | ⟨-, _, _, -, heq⟩ | ⟨hclosed, -⟩
  · rfl
  · rw [heq]
  · exact absurd hclosed hopen

/-- Of the events only a `ConnectionClosed` is the host's doing (R262). -/
theorem HostEffect.logs_close_only {o : HostOp} {s t : State} (h : HostEffect o s t) :
    t.log = s.log ∨ ∃ c reason, c ∈ s.ctxs ∧ t.log = s.log ++ c.logged [.connectionClosed reason] := by
  cases h with
  | quiet _ log => exact .inl log
  | opened _ _ _ _ _ _ log => exact .inl log
  | fed _ _ _ _ _ _ _ log => exact .inl log
  | closed k c _ reason _ at_k _ _ log => exact .inr ⟨c, _, List.mem_of_getElem? at_k, log⟩
  | reset _ _ _ log => exact .inl log

/-- No operation puts anything on the bench or takes it from there (log entry 15). -/
theorem OpEffect.keeps_bench {s t : State} (h : OpEffect s t) : t.bench = s.bench := by
  cases h with
  | quiet setup _ _ => obtain ⟨-, -, -, hbench, -⟩ := setup; exact hbench
  | session _ _ _ _ setup _ _ _ _ _ => obtain ⟨-, -, -, hbench, -⟩ := setup; exact hbench
  | opened _ _ _ _ _ _ _ eq => rw [eq]; rfl
  | registered _ _ _ _ _ eq => rw [eq]; rfl
  | reset eq => rw [eq]; rfl

/-- Everything a step of the host does: the operation at the head of the queue has its effect, and the bench stays as it was. -/
theorem host_turn {s t : State} (hpick : s.pick = some .host) (h : step s = .next t) :
    ∃ o rest, s.queue.head? = some o ∧ t.bench = s.bench
      ∧ HostEffect o { s with sched := s.sched.tail, queue := rest } t := by
  obtain ⟨o, rest, hqueue⟩ := List.exists_cons_of_ne_nil (State.pick_host hpick)
  rw [step_host hpick hqueue] at h
  exact ⟨o, rest, by rw [hqueue]; rfl, (exec_effect h).keeps_bench, .of_exec h⟩

/-! ### A session's own turn -/

theorem completeFrame_keeps_imei (reg : Registry) {f : Frame} (h : f.hdr ≠ 0x01) (imei : Option (List Byte)) :
    (completeFrame reg f imei).1 = imei := by
  have hclass : classify f.hdr ≠ .telemetry := by
    rw [classify, if_neg h]
    split <;> decide
  simp [completeFrame, hclass]

/-- A frame step changes the IMEI only by a Complete Telemetry frame (R190, R256). -/
theorem Session.frameStep_imei {cfg : Config} {reg : Registry} {c c' : Session} {evs : List Event}
    (h : c.frameStep cfg reg = some (c', evs)) (hne : c'.lastIMEI ≠ c.lastIMEI) :
    ∃ f T, tryExtract cfg.maxBodyLen c.buf = .complete f T ∧ f.hdr = 0x01 := by
  rcases Session.frameStep_cases h with ⟨_, _, -, rfl, -⟩ | ⟨_, _, _, -, rfl, -⟩ | ⟨f, T, hanswer, rfl, -⟩
  · exact absurd rfl hne
  · exact absurd rfl hne
  · refine ⟨f, T, hanswer, ?_⟩
    by_contra hhdr
    exact hne (completeFrame_keeps_imei reg hhdr c.lastIMEI)

/-- The end of a FEED closes the context or leaves its IMEI alone (R260, R263). -/
theorem State.endFeed_imei {s : State} {k : Nat} {c c' : Session} (hc : s.ctxs[k]? = some c)
    (h : (s.endFeed k c).ctxs[k]? = some c') (hopen : c'.phase ≠ .closed) : c'.lastIMEI = c.lastIMEI := by
  obtain ⟨hk, -⟩ := List.getElem?_eq_some_iff.1 hc
  rcases s.endFeed_cases k c with ⟨-, he⟩ | ⟨-, he⟩ <;> rw [he] at h
  · rw [State.closeContext_ctxs, List.getElem?_set_self hk] at h
    cases h
    exact absurd rfl hopen
  · rw [State.setCtx_ctxs, List.getElem?_set_self hk] at h
    cases h
    rfl

/-- A session's own turn that leaves it open changes its IMEI only by a Complete Telemetry frame. -/
theorem session_turn_imei {s t : State} {k : Nat} {c c' : Session} (hinv : s.Inv) (hpick : s.pick = some (.session k))
    (hc : s.ctxs[k]? = some c) (h : step s = .next t) (hc' : t.ctxs[k]? = some c') (hopen : c'.phase ≠ .closed)
    (hne : c'.lastIMEI ≠ c.lastIMEI) : ∃ f T, tryExtract s.cfg.maxBodyLen c.buf = .complete f T ∧ f.hdr = 0x01 := by
  obtain ⟨d, hd, hphase⟩ := State.pick_session hpick
  obtain rfl : c = d := Option.some.inj (hc.symm.trans hd)
  rcases hphase with hdue | hidle
  · obtain ⟨d', evs, hf, hd', -⟩ := session_frame_turn hinv hpick hc hdue h
    obtain rfl : c' = d' := Option.some.inj (hc'.symm.trans hd')
    exact Session.frameStep_imei hf hne
  · rw [step_session_idle hpick hc hidle] at h
    cases h
    exact absurd (State.endFeed_imei (s := { s with sched := s.sched.tail }) hc hc' hopen) hne

/-! ### The parties together -/

/-- With nothing on the bench a step leaves it empty. -/
theorem step_keeps_bench_empty {s t : State} (hinv : s.Inv) (hbench : s.bench = []) (h : step s = .next t) : t.bench = [] := by
  cases hpick : s.pick with
  | none => rw [step_wait hpick] at h; cases h; exact hbench
  | some turn =>
    cases turn with
    | host =>
      obtain ⟨_, _, -, hkeeps, -⟩ := host_turn hpick h
      exact hkeeps.trans hbench
    | session k =>
      obtain ⟨c, hc, -⟩ := State.pick_session hpick
      obtain ⟨_, _, -, -, -, -, -, hkeeps, -⟩ := session_turn hinv hpick hc h
      exact hkeeps.trans hbench
    | bench => exact absurd hbench (State.pick_bench hpick)

/-- An open context outside its own turn: it stays as it was, or the host moves it. -/
theorem step_outside_own_turn {s t : State} {j : Nat} {c : Session} (hinv : s.Inv) (hbench : s.bench = []) (h : step s = .next t)
    (hc : s.ctxs[j]? = some c) (hopen : c.phase ≠ .closed) (hturn : s.pick ≠ some (.session j)) :
    ∃ c', t.ctxs[j]? = some c'
      ∧ (c' = c ∨ (s.pick = some .host ∧ ∃ o, s.queue.head? = some o ∧ c.HostMove o c')) := by
  cases hpick : s.pick with
  | none => rw [step_wait hpick] at h; cases h; exact ⟨c, hc, .inl rfl⟩
  | some turn =>
    cases turn with
    | host =>
      obtain ⟨o, rest, hhead, -, heff⟩ := host_turn hpick h
      obtain ⟨c', hc', hmove⟩ := heff.on_open_context hc hopen
      exact ⟨c', hc', .inr ⟨rfl, o, hhead, hmove⟩⟩
    | session k =>
      obtain ⟨d, hd, -⟩ := State.pick_session hpick
      obtain ⟨_, _, hctxs, -⟩ := session_turn hinv hpick hd h
      have hkj : k ≠ j := fun hkj => hturn (hkj ▸ hpick)
      exact ⟨c, by rw [hctxs, List.getElem?_set_ne hkj, hc], .inl rfl⟩
    | bench => exact absurd hbench (State.pick_bench hpick)

/-- Settles O60: party by party, the host's moves of an open context, and the frame step of the session's own turn. -/
theorem onlyItsTurnFeedAndCloseChangeASession : Obligations.OnlyItsTurnFeedAndCloseChangeASession := by
  intro s t hinv hbench h
  refine ⟨step_keeps_bench_empty hinv hbench h, fun j c hc hopen hturn => ?outside, fun j c c' hc hopen hc' hopen' hne => ?imei,
    fun hpick => ?log⟩
  case outside =>
    obtain ⟨c', hc', rfl | ⟨hpick, o, hhead, rfl | ⟨hopen', chunk, tm, rfl, heq⟩ | ⟨hclosed, hop⟩⟩⟩ :=
      step_outside_own_turn hinv hbench h hc hopen hturn
    · exact ⟨_, hc', .inl rfl⟩
    · exact ⟨_, hc', .inl rfl⟩
    · exact ⟨c', hc', .inr (.inl ⟨hpick, hopen', chunk, tm, hhead, heq⟩)⟩
    · refine ⟨c', hc', .inr (.inr ⟨hpick, hclosed, ?_⟩)⟩
      rcases hop with rfl | ⟨reason, rfl⟩
      · exact .inl hhead
      · exact .inr ⟨reason, hhead⟩
  case imei =>
    by_cases hpick : s.pick = some (.session j)
    · exact ⟨hpick, session_turn_imei hinv hpick hc h hc' hopen' hne⟩
    · obtain ⟨d, hd, hmove⟩ := step_outside_own_turn hinv hbench h hc hopen hpick
      obtain rfl : c' = d := Option.some.inj (hc'.symm.trans hd)
      rcases hmove with rfl | ⟨-, o, -, hmove⟩
      · exact absurd rfl hne
      · exact absurd (hmove.keeps_imei hopen') hne
  case log =>
    obtain ⟨_, _, -, -, heff⟩ := host_turn hpick h
    exact heff.logs_close_only

end Sys2Proof.Machine
end
